-- ==== Sys2Proof/Word.lean ====
section
/-! DEFINITION. The word types of SDL-CORE (00_scope.md R14) and the host transaction (30_encoding.md R80). -/

namespace Sys2Proof

/-- A byte: 8 bits, unsigned (R14). -/
abbrev Byte := BitVec 8

/-- A 16-bit unsigned quantity: a CRC value, a length, `ARG`, `RESULT` (R14). -/
abbrev Half := BitVec 16

/-- The three inputs of one host transaction (R80): the command word, the argument and the data operand. -/
structure Transaction where
  cmd : Byte
  arg : Half
  din : List Byte
  deriving DecidableEq, Repr

end Sys2Proof
end

