-- ==== Sys2Proof/Syntax.lean ====
section
/-! DEFINITION. The ten commands (30_encoding.md R82), each with the operands it uses; an operand a command ignores
(R87) is not part of it. -/

namespace Sys2Proof

/-- One constructor per row of the opcode table. -/
inductive Instr where
  /-- `CRC_COMPUTE din` (40_crc.md R111). -/
  | crcCompute (din : List Byte)
  /-- `CRC_APPEND arg din`, `arg` the CRC value (40_crc.md R112). -/
  | crcAppend (arg : Half) (din : List Byte)
  /-- `CRC_VERIFY din` (40_crc.md R113). -/
  | crcVerify (din : List Byte)
  /-- `STUFF_ENCODE arg din`, `arg` the destination capacity (41_stuffer.md R132). -/
  | stuffEncode (arg : Half) (din : List Byte)
  /-- `STUFF_DECODE din` (41_stuffer.md R134). -/
  | stuffDecode (din : List Byte)
  /-- `FRAME_ENCODE din` (42_framer.md R151). -/
  | frameEncode (din : List Byte)
  /-- `FRAME_DECODE din` (42_framer.md R153). -/
  | frameDecode (din : List Byte)
  /-- `LINE_INIT` with the capabilities the line owns: source present, sink present (43_line_session.md R171). -/
  | lineInit (rx tx : Bool)
  /-- `LINE_SEND din` (43_line_session.md R180). -/
  | lineSend (din : List Byte)
  /-- `LINE_RECEIVE arg`, `arg` the output capacity (43_line_session.md R189). -/
  | lineReceive (arg : Half)
  deriving DecidableEq, Repr

end Sys2Proof
end

