-- ==== Sys2Proof/WellFormed.lean ====
section
/-! DEFINITION. Which transactions and commands the interface can carry (30_encoding.md R80): a data operand has at
most 65535 bytes. The widths of `CMD` and `ARG` and the four forms of `LINE_INIT` are carried by the types. -/

namespace Sys2Proof

/-- The longest data operand the interface carries (R80: "length 0 to 65535"). -/
abbrev maxDin : Nat := 65535

/-- The length of a data operand is one the interface carries. -/
def dinFits (din : List Byte) : Bool := decide (din.length ≤ maxDin)

/-- A transaction the interface can carry. -/
def Transaction.wf (t : Transaction) : Bool := dinFits t.din

/-- A command the interface can carry. -/
def Instr.wf : Instr → Bool
  | .crcCompute din    => dinFits din
  | .crcAppend _ din   => dinFits din
  | .crcVerify din     => dinFits din
  | .stuffEncode _ din => dinFits din
  | .stuffDecode din   => dinFits din
  | .frameEncode din   => dinFits din
  | .frameDecode din   => dinFits din
  | .lineInit _ _      => true
  | .lineSend din      => dinFits din
  | .lineReceive _     => true

end Sys2Proof
end

