-- ==== Sys2Proof/Decode.lean ====
section
/-! DEFINITION. Decoding a host transaction (30_encoding.md R81, R82, R85), total on every command word, and the
encoder. The numbering of the opcode table's bits, for the host's own probe, stands at the end. -/

namespace Sys2Proof

/-- Why a command word is illegal (R85). -/
inductive DecodeReject where
  /-- `OP` is 0x0 or 0xB to 0xF. -/
  | reservedOp (op : BitVec 4)
  /-- `SUB` is not one the operation allows. -/
  | reservedSub (sub : BitVec 4)
  deriving DecidableEq, Repr

/-- `OP`, bits 7:4 of the command word (R81). -/
abbrev cmdOp (cmd : Byte) : BitVec 4 := cmd.extractLsb' 4 4

/-- `SUB`, bits 3:0 of the command word (R81). -/
abbrev cmdSub (cmd : Byte) : BitVec 4 := cmd.extractLsb' 0 4

/-- Every operation but `LINE_INIT` requires `SUB = 0` (R81, R85). -/
def decodePlain (sub : BitVec 4) (i : Instr) : Except DecodeReject Instr :=
  if sub = 0 then .ok i else .error (.reservedSub sub)

/-- `LINE_INIT`: `SUB[0]` = sink present, `SUB[1]` = source present, `SUB[3:2]` must be 0 (R81, R171). -/
def decodeLineInit (sub : BitVec 4) : Except DecodeReject Instr :=
  if sub.extractLsb' 2 2 = 0 then .ok (.lineInit (sub.getLsbD 1) (sub.getLsbD 0)) else .error (.reservedSub sub)

/-- The opcode map (R82): the command of a transaction, or why its command word is illegal (R85). -/
def decode (t : Transaction) : Except DecodeReject Instr :=
  let sub := cmdSub t.cmd
  match (cmdOp t.cmd).toNat with
  | 0x1 => decodePlain sub (.crcCompute t.din)
  | 0x2 => decodePlain sub (.crcAppend t.arg t.din)
  | 0x3 => decodePlain sub (.crcVerify t.din)
  | 0x4 => decodePlain sub (.stuffEncode t.arg t.din)
  | 0x5 => decodePlain sub (.stuffDecode t.din)
  | 0x6 => decodePlain sub (.frameEncode t.din)
  | 0x7 => decodePlain sub (.frameDecode t.din)
  | 0x8 => decodeLineInit sub
  | 0x9 => decodePlain sub (.lineSend t.din)
  | 0xA => decodePlain sub (.lineReceive t.arg)
  | _ => .error (.reservedOp (cmdOp t.cmd))

/-- `CMD = 0x80 | (rx << 1) | tx` (R171). -/
def lineInitCmd (rx tx : Bool) : Byte :=
  0x80 ||| (if rx then 0x02 else 0x00) ||| (if tx then 0x01 else 0x00)

/-- The transaction of a command (R82), with 0 and the empty sequence for operands it ignores. -/
def encode : Instr → Transaction
  | .crcCompute din      => ⟨0x10, 0, din⟩
  | .crcAppend arg din   => ⟨0x20, arg, din⟩
  | .crcVerify din       => ⟨0x30, 0, din⟩
  | .stuffEncode arg din => ⟨0x40, arg, din⟩
  | .stuffDecode din     => ⟨0x50, 0, din⟩
  | .frameEncode din     => ⟨0x60, 0, din⟩
  | .frameDecode din     => ⟨0x70, 0, din⟩
  | .lineInit rx tx      => ⟨lineInitCmd rx tx, 0, []⟩
  | .lineSend din        => ⟨0x90, 0, din⟩
  | .lineReceive arg     => ⟨0xA0, arg, []⟩

/-- The transaction whose bits the opcode table numbers `w` (log entry 6): bits 7:0 are `CMD`, bits 23:8 `ARG`, as far
as `nbits` reaches; bits above are 0 and `DIN`, which the table gives no bits, is empty. -/
def tableTransaction (nbits w : Nat) : Transaction :=
  let v := w % 2 ^ nbits
  ⟨BitVec.ofNat 8 v, BitVec.ofNat 16 (v / 256), []⟩

/-- The command the decoder reads from an instruction whose bits are `w`; `none` where the word is illegal. -/
def decodeTableWord (nbits w : Nat) : Option Instr :=
  match decode (tableTransaction nbits w) with
  | .ok i => some i
  | .error _ => none

end Sys2Proof
end

