-- ==== Sys2Proof/Config.lean ====
section
/-! DEFINITION. What is fixed when the block is built (00_scope.md R10, R12), and the free values: what the spec
leaves to the environment or calls unspecified. -/

namespace Sys2Proof

/-- `RESYNC_POLICY` (R12): what becomes of the closing FLAG of a rejected candidate. -/
inductive ResyncPolicy where
  /-- The rejected candidate is consumed whole (R196). The default. -/
  | consumeTail
  /-- The rejected candidate is consumed but for its closing FLAG (R198). -/
  | reuseTail
  deriving DecidableEq, Repr

/-- The build parameters, the model's two arguments (R10, R12). They never change (10_state.md R34). -/
structure Params where
  maxPayload : Nat
  policy     : ResyncPolicy
  deriving DecidableEq, Repr

/-- The default build (R10 "default 256", R12 "default `CONSUME_TAIL`"). Log entry 5. -/
def Params.default : Params := ⟨256, .consumeTail⟩

/-- FREE VALUE (log entry 1): the sink's answer to an offer the environment has not listed (20_memory.md R60).
It has no instance index: the model's choice, log entry 17. -/
opaque Config.freeSinkAnswer : Nat → Bool

/-- FREE VALUE (log entry 1): the source's answer to a poll the environment has not listed (20_memory.md R61).
It has no instance index: the model's choice, log entry 17. -/
opaque Config.freeSourceAnswer : Nat → Option Byte

/-- FREE VALUE (log entry 3): what byte `i` of `SCR` holds in epoch `e` where nothing has been written
(10_state.md R25, 20_memory.md R57). It has no instance index: the model's choice, log entry 17. -/
opaque Config.freeScratchByte : (e i : Nat) → Byte

end Sys2Proof
end

