-- ==== Sys2Proof/Machine/State.lean ====
section
/-! DEFINITION. The state of one SDL-CORE instance (10_state.md R20), its build parameters, what stands outside its
ports, and the state after reset (R34). Every field is plain data. -/

namespace Sys2Proof.Machine

/-- The names of the status codes (30_encoding.md R84). Code 7 is reserved and never produced, so it has no name. -/
inductive Status where
  | ok
  | configError
  | capacityError
  | transportError
  | framingError
  | integrityError
  | commandError
  deriving DecidableEq, Repr

/-- `TXS` (10_state.md R29). `txEmit i` is about to offer byte `i` of the frame. -/
inductive TxState where
  | idle
  | txCheck
  | txBuild
  | txEmit (i : Nat)
  | txDone
  | txAbort
  deriving DecidableEq, Repr

/-- `RXS` (10_state.md R29). -/
inductive RxState where
  | idle
  | rxCheck
  | rxFill
  | rxLocate
  | rxDecode
  | rxDeliver
  | rxEmpty
  deriving DecidableEq, Repr

/-- `SCR` (10_state.md R25, 20_memory.md R57): the prefix that has been written, and the epoch that names the
unspecified bytes beyond it (log entry 3). Read it with `State.scrByte`. -/
structure Scratch where
  written : List Byte
  epoch   : Nat
  deriving DecidableEq, Repr

/-- One call on a byte port and its answer (20_memory.md R60, R61). -/
inductive PortEvent where
  /-- `SinkOffer b` answered `accepted`. -/
  | offer (b : Byte) (accepted : Bool)
  /-- `SourcePoll` answered `answer`. -/
  | poll (answer : Option Byte)
  deriving DecidableEq, Repr

/-- What stands outside the two ports (10_state.md R32): no state of the block. -/
structure Ports where
  /-- The sink's answers to the next offers, first one first (log entry 1). -/
  sinkAnswers : List Bool
  /-- The source's answers to the next polls, first one first (log entry 1). -/
  sourceAnswers : List (Option Byte)
  /-- How many answers have been free values so far (log entry 1). -/
  draws : Nat
  /-- The calls made so far, oldest first: a record nothing reads (log entry 2). -/
  events : List PortEvent
  deriving DecidableEq, Repr

/-- What the host can present to the block: a command (R80), or a reset between commands (R250). -/
inductive HostEvent where
  | command (t : Transaction)
  | reset
  deriving DecidableEq, Repr

/-- The state of one instance. -/
structure State where
  /-- Build parameters, never written (R34). -/
  params : Params
  /-- `LCFG` (R22): bit 0 `TX_EN`, bit 1 `RX_EN`, bit 2 `INIT`, bits 7:3 hardwired 0. -/
  lcfg   : Byte
  /-- `ACC` (R24), oldest byte first. -/
  acc    : List Byte
  /-- `SCR` (R25). -/
  scr    : Scratch
  /-- `STATUS` (R26). -/
  status : BitVec 3
  /-- `RESULT` (R27). -/
  result : Half
  /-- `DOUT` (R28); `none` is the no-value mark, which must not be read (log entry 8). -/
  dout   : Option (List Byte)
  /-- `TXS` (R29). -/
  txs    : TxState
  /-- `RXS` (R29). -/
  rxs    : RxState
  /-- Outside the block: its two byte ports. -/
  ports  : Ports
  /-- Outside the block: what the host will present next, oldest first (log entry 6). -/
  host   : List HostEvent
  deriving DecidableEq, Repr

/-- Reasons for the machine to stop. The spec has none: "the block never stops or hangs" (60_exceptions.md R220). -/
inductive Fault where
  /-- Raised by `LINE_SEND` and `LINE_RECEIVE` if their machine is not back at `IDLE` within its work bound
  (43_line_session.md R181, R201). Safe; the rules say it never happens (70_reset_and_hazards.md R267). Log entry 7. -/
  | workBoundExceeded
  deriving DecidableEq, Repr

/-- Reasons to give a step no meaning. -/
inductive Refusal where
  /-- An arm of `exec` that has no meaning yet. Safe. No arm uses it. -/
  | notModelled (mnemonic : String)
  /-- Raised by `step` when a command is presented while another is running (70_reset_and_hazards.md R262). Safe: the
  spec says a model refuses it. Log entry 11. -/
  | commandWhileRunning
  /-- Raised by `step` for a `MAX_PAYLOAD` outside 1 to 32764 (00_scope.md R8, R10). Safe: no such block can be built.
  Log entry 5. -/
  | illegalBuild
  /-- Raised by `step` for a `DIN` of more than 65535 bytes, which the interface cannot carry (30_encoding.md R80).
  Safe. Log entry 13. -/
  | operandTooLong
  deriving DecidableEq, Repr

/-- Nothing listed, nothing called yet (log entries 1, 2). -/
def Ports.quiet : Ports := ⟨[], [], 0, []⟩

/-- The state after reset (R34) of a block of the given build. -/
def State.resetOf (p : Params) : State where
  params := p
  lcfg   := 0x00
  acc    := []
  scr    := ⟨[], 0⟩
  status := 0
  result := 0x0000
  dout   := some []
  txs    := .idle
  rxs    := .idle
  ports  := Ports.quiet
  host   := []

/-- The state after reset of the default build (R10, R12, R34). -/
def State.reset : State := State.resetOf Params.default

end Sys2Proof.Machine
end

