-- ==== Sys2Proof/Machine/Operands.lean ====
section
/-! DEFINITION. The fixed constants (00_scope.md R13), the sizes derived from `MAX_PAYLOAD` (R11), the byte order of
the CRC field (20_memory.md R58, R59), and the accessors of the line configuration register (10_state.md R22). -/

namespace Sys2Proof

/-- `ACC_CAP` (R11). -/
abbrev Params.accCap (p : Params) : Nat := 2 * p.maxPayload + 6

/-- `CAND_MIN` (R11): the least number of interior bytes of a candidate. -/
abbrev Params.candMin (_ : Params) : Nat := 0

/-- `CAND_MAX` (R11): the greatest number of interior bytes of a candidate. -/
abbrev Params.candMax (p : Params) : Nat := 2 * p.maxPayload + 4

/-- `SCRATCH_CAP` (R11). -/
abbrev Params.scratchCap (p : Params) : Nat := 2 * p.maxPayload + 6

/-- `MAX_OPERAND` (R11): the longest data operand of a command. -/
abbrev Params.maxOperand (p : Params) : Nat := p.scratchCap

/-- The builds that exist: `MAX_PAYLOAD` from 1 to 32764 (R10). -/
def Params.legal (p : Params) : Bool := decide (1 ≤ p.maxPayload) && decide (p.maxPayload ≤ 32764)

namespace Machine

/-- `FLAG` (R13). -/
def flagByte : Byte := 0x7E

/-- `ESCAPE` (R13). -/
def escapeByte : Byte := 0x7D

/-- `ESC_XOR` (R13). -/
def escXor : Byte := 0x20

/-- `BE16(v)`, also `hton16(v)`: high byte first (R15, R58). -/
def be16 (v : Half) : List Byte := [v.extractLsb' 8 8, v.extractLsb' 0 8]

/-- `ntoh16([h, l])` (R58). -/
def ntoh16 (h l : Byte) : Half := (h.setWidth 16 <<< 8) ||| l.setWidth 16

/-- `LCFG.TX_EN`, bit 0 (R22). -/
def State.txEn (s : State) : Bool := s.lcfg.getLsbD 0

/-- `LCFG.RX_EN`, bit 1 (R22). -/
def State.rxEn (s : State) : Bool := s.lcfg.getLsbD 1

/-- `LCFG.INIT`, bit 2 (R22). -/
def State.inited (s : State) : Bool := s.lcfg.getLsbD 2

/-- The value `LINE_INIT` leaves in `LCFG` (R22, R171): `INIT` set, the two capabilities as given, bits 7:3 zero. -/
def lcfgValue (rx tx : Bool) : Byte :=
  0x04 ||| (if rx then 0x02 else 0x00) ||| (if tx then 0x01 else 0x00)

/-- The line may send: it is initialised and owns a sink (43_line_session.md R182, check 1). -/
def State.canSend (s : State) : Bool := s.inited && s.txEn

/-- The line may receive: it is initialised and owns a source (43_line_session.md R191). -/
def State.canReceive (s : State) : Bool := s.inited && s.rxEn

end Machine

end Sys2Proof
end

