-- ==== Sys2Proof/Machine/Flags.lean ====
section
/-! DEFINITION. The block has no condition flags but the result registers (10_state.md R21): the status numbers
(30_encoding.md R84) and the values `RESULT` takes (R83). -/

namespace Sys2Proof.Machine

/-- The number of a status (R84). -/
def Status.code : Status → BitVec 3
  | .ok             => 0
  | .configError    => 1
  | .capacityError  => 2
  | .transportError => 3
  | .framingError   => 4
  | .integrityError => 5
  | .commandError   => 6

/-- A length or count as the 16-bit `RESULT` (R14, R83). With a legal build no length exceeds 65534 (00_scope.md R10). -/
def countResult (n : Nat) : Half := BitVec.ofNat 16 n

/-- A verdict as `RESULT`: 1 or 0 (R83, 40_crc.md R113). -/
def verdictResult (b : Bool) : Half := if b then 1 else 0

end Sys2Proof.Machine
end

