-- ==== Sys2Proof/Machine/Ops.lean ====
section
/-! DEFINITION. The pseudocode primitives (00_scope.md R16): the accumulation FIFO (20_memory.md R51 to R55), the
scratch buffer (R57), the two ports (R60, R61), the end of a command with its result or its error (R26 to R28), reset
(70_reset_and_hazards.md R250), and what a step takes from the host. -/

namespace Sys2Proof.Machine

/-- `AccLen()` (R51). -/
abbrev State.accLen (s : State) : Nat := s.acc.length

/-- `is_full()` (R51). -/
def State.accFull (s : State) : Bool := decide (s.params.accCap ≤ s.accLen)

/-- `is_empty()` (R51). -/
def State.accEmpty (s : State) : Bool := decide (s.accLen = 0)

/-- `AccPeek(i)` (R52): `none` where it is not defined. -/
def State.accPeek (s : State) (i : Nat) : Option Byte := s.acc[i]?

/-- `[AccPeek(0), ..., AccPeek(t)]` (43_line_session.md R189). -/
def State.accFront (s : State) (t : Nat) : List Byte := s.acc.take (t + 1)

/-- `AccPop(n)` (R53). -/
def State.accPop (s : State) (n : Nat) : State := { s with acc := s.acc.drop n }

/-- `AccPush(b)` (R54); called only when the FIFO is not full. -/
def State.accPush (s : State) (b : Byte) : State := { s with acc := s.acc ++ [b] }

/-- `AccFlush()` (R55). -/
def State.accFlush (s : State) : State := { s with acc := [] }

/-- `ScrWrite(x)` (R57): the bytes beyond `x` become unspecified. -/
def State.scrWrite (s : State) (x : List Byte) : State := { s with scr := ⟨x, s.scr.epoch + 1⟩ }

/-- `ScrHavoc()` (R57): every byte becomes unspecified. -/
def State.scrHavoc (s : State) : State := { s with scr := ⟨[], s.scr.epoch + 1⟩ }

/-- Byte `i` of `SCR`: what was written there, else a free value (R25, log entry 3), the same for two instances in equal
epochs (the model's choice, log entry 17). -/
def State.scrByte (s : State) (i : Nat) : Byte :=
  match s.scr.written[i]? with
  | some b => b
  | none => Config.freeScratchByte s.scr.epoch i

/-- The environment's answer to an offer of `b`, and what stands outside the ports afterwards (R60). Past the list it is
a free value of the counter alone (log entry 1), so two instances with equal counters get equal answers: the model's
choice, log entry 17. -/
def Ports.offer (p : Ports) (b : Byte) : Bool × Ports :=
  match p.sinkAnswers with
  | a :: rest => (a, { p with sinkAnswers := rest, events := p.events ++ [.offer b a] })
  | [] =>
    let a := Config.freeSinkAnswer p.draws
    (a, { p with draws := p.draws + 1, events := p.events ++ [.offer b a] })

/-- The environment's answer to a poll, and what stands outside the ports afterwards (R61). Past the list it is a free
value of the counter alone (log entry 1), so two instances with equal counters get equal answers: the model's choice,
log entry 17. -/
def Ports.poll (p : Ports) : Option Byte × Ports :=
  match p.sourceAnswers with
  | a :: rest => (a, { p with sourceAnswers := rest, events := p.events ++ [.poll a] })
  | [] =>
    let a := Config.freeSourceAnswer p.draws
    (a, { p with draws := p.draws + 1, events := p.events ++ [.poll a] })

/-- `SinkOffer(b)` (R60). -/
def State.sinkOffer (s : State) (b : Byte) : Bool × State :=
  ((s.ports.offer b).1, { s with ports := (s.ports.offer b).2 })

/-- `SourcePoll()` (R61). -/
def State.sourcePoll (s : State) : Option Byte × State :=
  (s.ports.poll.1, { s with ports := s.ports.poll.2 })

/-- `finish(status, result, dout)` (R16): the result registers are written, and the command leaves `SCR` unspecified
(10_state.md R25). -/
def State.finish (s : State) (st : Status) (r : Half) (d : Option (List Byte)) : State :=
  { s.scrHavoc with status := st.code, result := r, dout := d }

/-- `fail E` (R16): how every error is taken (60_exceptions.md R220). Nothing is saved, control goes nowhere (R228). -/
def State.fail (s : State) (e : Status) : State := s.finish e 0 none

/-- A command that uses `DIN` (30_encoding.md R86, step 3): an operand that does not fit `SCR` fails, else the work
is done. -/
def State.withOperand (s : State) (din : List Byte) (work : State) : State :=
  if s.params.maxOperand < din.length then s.fail .capacityError else work

/-- `TXS <- x` (10_state.md R29). -/
def State.setTxs (s : State) (x : TxState) : State := { s with txs := x }

/-- `RXS <- x` (10_state.md R29). -/
def State.setRxs (s : State) (x : RxState) : State := { s with rxs := x }

/-- A legal command word does not reach here; an illegal one fails and changes nothing else (R85). -/
def State.illegalCommand (s : State) : State := s.fail .commandError

/-- Reset (R250): every piece of block state takes its reset value; the build parameters, what the source still holds
(R252) and what the host will present next are no block state. -/
def State.applyReset (s : State) : State :=
  { s.scrHavoc with
    lcfg := 0x00, acc := [], status := Status.ok.code, result := 0x0000, dout := some [], txs := .idle, rxs := .idle }

/-- A command is running: one of the machines is not `IDLE` (10_state.md R29). -/
def State.running (s : State) : Bool := !(decide (s.txs = .idle) && decide (s.rxs = .idle))

/-- What the host presents next, and the state with it taken from the queue (20_memory.md R65). -/
def State.takeEvent (s : State) : Option (HostEvent × State) :=
  match s.host with
  | [] => none
  | e :: rest => some (e, { s with host := rest })

/-- The state in which the host presents `t` next, both machines idle as they are between commands (R29). -/
def State.present (s : State) (t : Transaction) : State :=
  { s with host := .command t :: s.host, txs := .idle, rxs := .idle }

end Sys2Proof.Machine
end

