-- ==== Sys2Proof/Machine/Crc.lean ====
section
/-! DEFINITION. The CRC-16 codec: the ROM `CRCTAB` (10_state.md R30), `crc16` (40_crc.md R110) and its three commands
(R111 to R113). -/

namespace Sys2Proof.Machine

/-- `CRCTAB[0x00]` to `CRCTAB[0x1F]` (R30). -/
def crcTab0 : List Half :=
  [0x0000, 0x1021, 0x2042, 0x3063, 0x4084, 0x50A5, 0x60C6, 0x70E7,
   0x8108, 0x9129, 0xA14A, 0xB16B, 0xC18C, 0xD1AD, 0xE1CE, 0xF1EF,
   0x1231, 0x0210, 0x3273, 0x2252, 0x52B5, 0x4294, 0x72F7, 0x62D6,
   0x9339, 0x8318, 0xB37B, 0xA35A, 0xD3BD, 0xC39C, 0xF3FF, 0xE3DE]

/-- `CRCTAB[0x20]` to `CRCTAB[0x3F]` (R30). -/
def crcTab1 : List Half :=
  [0x2462, 0x3443, 0x0420, 0x1401, 0x64E6, 0x74C7, 0x44A4, 0x5485,
   0xA56A, 0xB54B, 0x8528, 0x9509, 0xE5EE, 0xF5CF, 0xC5AC, 0xD58D,
   0x3653, 0x2672, 0x1611, 0x0630, 0x76D7, 0x66F6, 0x5695, 0x46B4,
   0xB75B, 0xA77A, 0x9719, 0x8738, 0xF7DF, 0xE7FE, 0xD79D, 0xC7BC]

/-- `CRCTAB[0x40]` to `CRCTAB[0x5F]` (R30). -/
def crcTab2 : List Half :=
  [0x48C4, 0x58E5, 0x6886, 0x78A7, 0x0840, 0x1861, 0x2802, 0x3823,
   0xC9CC, 0xD9ED, 0xE98E, 0xF9AF, 0x8948, 0x9969, 0xA90A, 0xB92B,
   0x5AF5, 0x4AD4, 0x7AB7, 0x6A96, 0x1A71, 0x0A50, 0x3A33, 0x2A12,
   0xDBFD, 0xCBDC, 0xFBBF, 0xEB9E, 0x9B79, 0x8B58, 0xBB3B, 0xAB1A]

/-- `CRCTAB[0x60]` to `CRCTAB[0x7F]` (R30). -/
def crcTab3 : List Half :=
  [0x6CA6, 0x7C87, 0x4CE4, 0x5CC5, 0x2C22, 0x3C03, 0x0C60, 0x1C41,
   0xEDAE, 0xFD8F, 0xCDEC, 0xDDCD, 0xAD2A, 0xBD0B, 0x8D68, 0x9D49,
   0x7E97, 0x6EB6, 0x5ED5, 0x4EF4, 0x3E13, 0x2E32, 0x1E51, 0x0E70,
   0xFF9F, 0xEFBE, 0xDFDD, 0xCFFC, 0xBF1B, 0xAF3A, 0x9F59, 0x8F78]

/-- `CRCTAB[0x80]` to `CRCTAB[0x9F]` (R30). -/
def crcTab4 : List Half :=
  [0x9188, 0x81A9, 0xB1CA, 0xA1EB, 0xD10C, 0xC12D, 0xF14E, 0xE16F,
   0x1080, 0x00A1, 0x30C2, 0x20E3, 0x5004, 0x4025, 0x7046, 0x6067,
   0x83B9, 0x9398, 0xA3FB, 0xB3DA, 0xC33D, 0xD31C, 0xE37F, 0xF35E,
   0x02B1, 0x1290, 0x22F3, 0x32D2, 0x4235, 0x5214, 0x6277, 0x7256]

/-- `CRCTAB[0xA0]` to `CRCTAB[0xBF]` (R30). -/
def crcTab5 : List Half :=
  [0xB5EA, 0xA5CB, 0x95A8, 0x8589, 0xF56E, 0xE54F, 0xD52C, 0xC50D,
   0x34E2, 0x24C3, 0x14A0, 0x0481, 0x7466, 0x6447, 0x5424, 0x4405,
   0xA7DB, 0xB7FA, 0x8799, 0x97B8, 0xE75F, 0xF77E, 0xC71D, 0xD73C,
   0x26D3, 0x36F2, 0x0691, 0x16B0, 0x6657, 0x7676, 0x4615, 0x5634]

/-- `CRCTAB[0xC0]` to `CRCTAB[0xDF]` (R30). -/
def crcTab6 : List Half :=
  [0xD94C, 0xC96D, 0xF90E, 0xE92F, 0x99C8, 0x89E9, 0xB98A, 0xA9AB,
   0x5844, 0x4865, 0x7806, 0x6827, 0x18C0, 0x08E1, 0x3882, 0x28A3,
   0xCB7D, 0xDB5C, 0xEB3F, 0xFB1E, 0x8BF9, 0x9BD8, 0xABBB, 0xBB9A,
   0x4A75, 0x5A54, 0x6A37, 0x7A16, 0x0AF1, 0x1AD0, 0x2AB3, 0x3A92]

/-- `CRCTAB[0xE0]` to `CRCTAB[0xFF]` (R30). -/
def crcTab7 : List Half :=
  [0xFD2E, 0xED0F, 0xDD6C, 0xCD4D, 0xBDAA, 0xAD8B, 0x9DE8, 0x8DC9,
   0x7C26, 0x6C07, 0x5C64, 0x4C45, 0x3CA2, 0x2C83, 0x1CE0, 0x0CC1,
   0xEF1F, 0xFF3E, 0xCF5D, 0xDF7C, 0xAF9B, 0xBFBA, 0x8FD9, 0x9FF8,
   0x6E17, 0x7E36, 0x4E55, 0x5E74, 0x2E93, 0x3EB2, 0x0ED1, 0x1EF0]

/-- `CRCTAB`, the constant ROM of 256 entries (R30, log entry 4). -/
def crcTab : List Half := crcTab0 ++ crcTab1 ++ crcTab2 ++ crcTab3 ++ crcTab4 ++ crcTab5 ++ crcTab6 ++ crcTab7

/-- `CRCTAB[i]` (R16). -/
def crcTabAt (i : Byte) : Half := crcTab.getD i.toNat 0

/-- One step of the loop of R110: `idx <- (c >> 8) XOR b; c <- ((c << 8) & 0xFFFF) XOR CRCTAB[idx]`. -/
def crcUpdate (c : Half) (b : Byte) : Half := (c <<< 8) ^^^ crcTabAt ((c >>> 8).setWidth 8 ^^^ b)

/-- The loop of R110 started at `c` (`crc_from` of R115). -/
def crcFrom (c : Half) (x : List Byte) : Half := x.foldl crcUpdate c

/-- `crc16(x)` (R110): initial value 0xFFFF, no final XOR. -/
def crc16 (x : List Byte) : Half := crcFrom 0xFFFF x

/-- The residue of `x` is zero (R113). -/
def residueZero (x : List Byte) : Bool := decide (crc16 x = 0x0000)

/-- `CRC_COMPUTE` (R111). -/
def execCrcCompute (din : List Byte) (s : State) : Host.Outcome State Fault Refusal :=
  .next (s.withOperand din (s.finish .ok (crc16 din) none))

/-- `CRC_APPEND` (R112). -/
def execCrcAppend (arg : Half) (din : List Byte) (s : State) : Host.Outcome State Fault Refusal :=
  .next (s.withOperand din
    (if s.params.scratchCap < din.length + 2 then s.fail .capacityError
     else (s.scrWrite (din ++ be16 arg)).finish .ok (countResult (din.length + 2)) (some (din ++ be16 arg))))

/-- `CRC_VERIFY` (R113): a mismatch is no error. -/
def execCrcVerify (din : List Byte) (s : State) : Host.Outcome State Fault Refusal :=
  .next (s.withOperand din (s.finish .ok (verdictResult (residueZero din)) none))

end Sys2Proof.Machine
end

