-- ==== Sys2Proof/Machine/Stuffer.lean ====
section
/-! DEFINITION. The byte stuffer: `stuff` (41_stuffer.md R130), `unstuff` (R133) and their commands (R132, R134). -/

namespace Sys2Proof.Machine

/-- The byte must be escaped (R130). -/
def needsEscape (b : Byte) : Bool := decide (b = flagByte) || decide (b = escapeByte)

/-- What `stuff` emits for one byte (R130). -/
def stuffByte (b : Byte) : List Byte := if needsEscape b then [escapeByte, b ^^^ escXor] else [b]

/-- `stuff(x)` (R130). -/
def stuff (x : List Byte) : List Byte := x.flatMap stuffByte

/-- `unstuff(e)` (R133); `none` is the verdict `FRAMING`: an unescaped delimiter, a truncated escape or an invalid
escape target. The byte after an `ESCAPE` is never tested for being `FLAG`. -/
def unstuff : List Byte → Option (List Byte)
  | [] => some []
  | b :: rest =>
    if b = flagByte then none
    else if b = escapeByte then
      match rest with
      | [] => none
      | c :: rest' =>
        if needsEscape (c ^^^ escXor) then (unstuff rest').map ((c ^^^ escXor) :: ·) else none
    else (unstuff rest).map (b :: ·)

/-- `STUFF_ENCODE` (R132). -/
def execStuffEncode (arg : Half) (din : List Byte) (s : State) : Host.Outcome State Fault Refusal :=
  .next (s.withOperand din
    (if min arg.toNat s.params.scratchCap < (stuff din).length then s.scrHavoc.fail .capacityError
     else (s.scrWrite (stuff din)).finish .ok (countResult (stuff din).length) (some (stuff din))))

/-- `STUFF_DECODE` (R134). -/
def execStuffDecode (din : List Byte) (s : State) : Host.Outcome State Fault Refusal :=
  .next (s.withOperand din
    (match unstuff din with
     | none => (s.scrWrite din).scrHavoc.fail .framingError
     | some r => (s.scrWrite din).finish .ok (countResult r.length) (some r)))

end Sys2Proof.Machine
end

