-- ==== Sys2Proof/Machine/Framer.lean ====
section
/-! DEFINITION. The framer and the deframer: `frame` (42_framer.md R150), `deframe` (R152) and their commands (R151,
R153). -/

namespace Sys2Proof.Machine

/-- What is escaped in a frame: the payload and its CRC, high byte first (30_encoding.md R88). -/
def withCrc (p : List Byte) : List Byte := p ++ be16 (crc16 p)

/-- `frame(p)` (R150, R88). -/
def frame (p : List Byte) : List Byte := [flagByte] ++ stuff (withCrc p) ++ [flagByte]

/-- Check (a) of `deframe` (R152): at least two bytes, the first and the last of them `FLAG`. -/
def hasBoundaries (f : List Byte) : Bool :=
  decide (2 ≤ f.length) && decide (f.head? = some flagByte) && decide (f.getLast? = some flagByte)

/-- `f[1 .. |f|-1)` (R152). -/
def frameInterior (f : List Byte) : List Byte := (f.drop 1).dropLast

/-- `deframe(f)` (R152): the payload, or the error of the first check that fails. -/
def deframe (maxPayload : Nat) (f : List Byte) : Except Status (List Byte) :=
  if hasBoundaries f then
    match unstuff (frameInterior f) with
    | none => .error .framingError
    | some u =>
      if residueZero u then
        if maxPayload < u.length - 2 then .error .capacityError else .ok (u.take (u.length - 2))
      else .error .integrityError
  else .error .framingError

/-- `FRAME_ENCODE` (R151). -/
def execFrameEncode (din : List Byte) (s : State) : Host.Outcome State Fault Refusal :=
  .next (s.withOperand din
    (if s.params.maxPayload < din.length then s.fail .capacityError
     else (s.scrWrite (frame din)).finish .ok (countResult (frame din).length) (some (frame din))))

/-- `FRAME_DECODE` (R153). -/
def execFrameDecode (din : List Byte) (s : State) : Host.Outcome State Fault Refusal :=
  .next (s.withOperand din
    (match deframe s.params.maxPayload din with
     | .error e => (s.scrWrite din).scrHavoc.fail e
     | .ok p => (s.scrWrite din).finish .ok (countResult p.length) (some p)))

end Sys2Proof.Machine
end

