-- ==== Sys2Proof/Machine/Session.lean ====
section
/-! DEFINITION. The line session: `LINE_INIT` (43_line_session.md R171), the transmit machine and `LINE_SEND` (R180 to
R188), the boundary detector (R195), the receive machine and `LINE_RECEIVE` (R189 to R210). Each machine is the
transition table of its rule (R181, R190), run from `IDLE` to `IDLE` inside one command. -/

namespace Sys2Proof.Machine

/-- `LINE_INIT` (R171): `LCFG` is written, `ACC` flushed, no port called. -/
def execLineInit (rx tx : Bool) (s : State) : Host.Outcome State Fault Refusal :=
  .next ({ s with lcfg := lcfgValue rx tx }.accFlush.finish .ok 0 none)

/-- A running `LINE_SEND`: the state, and its locals `|f|` and the number of bytes the sink has accepted. -/
structure TxRun where
  s    : State
  len  : Nat
  sent : Nat
  deriving DecidableEq, Repr

/-- `TX_CHECK` (R182): the checks, in order, before any sink call. -/
def txCheckStep (din : List Byte) (s : State) : State :=
  if !s.canSend then (s.fail .configError).setTxs .idle
  else if s.params.maxPayload < din.length then (s.fail .capacityError).setTxs .idle
  else s.setTxs .txBuild

/-- `TX_EMIT(i)` (R181, R184, R186): byte `i` of the frame, read from `SCR`, is offered. -/
def txEmitStep (r : TxRun) (i : Nat) : TxRun :=
  let o := r.s.sinkOffer (r.s.scrByte i)
  if o.1 then
    { r with s := o.2.setTxs (if i + 1 < r.len then .txEmit (i + 1) else .txDone), sent := i + 1 }
  else { r with s := (o.2.scrHavoc).setTxs .txAbort, sent := i }

/-- One transition of `TXS` (R181). -/
def txStep (din : List Byte) (r : TxRun) : TxRun :=
  match r.s.txs with
  | .idle     => r
  | .txCheck  => { r with s := txCheckStep din r.s }
  | .txBuild  => { r with s := (r.s.scrWrite (frame din)).setTxs (.txEmit 0), len := (frame din).length }
  | .txEmit i => txEmitStep r i
  | .txDone   => { r with s := (r.s.finish .ok (countResult r.len) none).setTxs .idle }
  | .txAbort  => { r with s := (r.s.finish .transportError (countResult r.sent) none).setTxs .idle }

/-- The transmit machine, at most `fuel` transitions, until it is `IDLE`. -/
def runTx (din : List Byte) : (fuel : Nat) → TxRun → State
  | 0, r => r.s
  | n + 1, r => if r.s.txs = .idle then r.s else runTx din n (txStep din r)

/-- How many transitions one `LINE_SEND` can take: check, build, one per byte of the longest frame, done (R181). -/
def txBound (p : Params) : Nat := p.scratchCap + 3

/-- The end of a run of the transmit machine: it is back at `IDLE`, or it has exceeded its bound (log entry 7). -/
def txOutcome (s : State) : Host.Outcome State Fault Refusal :=
  if s.txs = .idle then .next s else .fault .workBoundExceeded

/-- `LINE_SEND` (R180). -/
def execLineSend (din : List Byte) (s : State) : Host.Outcome State Fault Refusal :=
  txOutcome (runTx din (txBound s.params) ⟨s.setTxs .txCheck, 0, 0⟩)

/-- `locate()` (R195) on the bytes of `ACC`: what is left once the garbage is dropped, and the offset of the closing
FLAG of the candidate at its head, if there is one. -/
def locate (candMax : Nat) : List Byte → List Byte × Option Nat
  | [] => ([], none)
  | b :: rest =>
    if b ≠ flagByte then locate candMax rest
    else
      match rest.findIdx? (fun x => decide (x = flagByte)) with
      | some j => (b :: rest, some (j + 1))
      | none => if candMax < rest.length then locate candMax rest else (b :: rest, none)

/-- A running `LINE_RECEIVE`: the state, and its locals, the tail of the candidate and the accepted payload. -/
structure RxRun where
  s       : State
  tail    : Nat
  payload : List Byte
  deriving DecidableEq, Repr

/-- `RX_FILL` (R192): one poll, unless the FIFO is full. -/
def rxFillStep (s : State) : State :=
  if s.accFull then s.setRxs .rxLocate
  else
    let o := s.sourcePoll
    match o.1 with
    | some b => o.2.accPush b
    | none => o.2.setRxs .rxLocate

/-- `RX_LOCATE` (R195). -/
def rxLocateStep (r : RxRun) : RxRun :=
  let l := locate r.s.params.candMax r.s.acc
  let s' := { r.s with acc := l.1 }
  match l.2 with
  | some t => { r with s := s'.setRxs .rxDecode, tail := t }
  | none => { r with s := s'.setRxs .rxEmpty }

/-- The verdict on a candidate (R197): the payload, if `deframe` gives one and it is not longer than `ARG`. -/
def judge (maxPayload : Nat) (arg : Half) (cand : List Byte) : Option (List Byte) :=
  match deframe maxPayload cand with
  | .ok p => if p.length ≤ arg.toNat then some p else none
  | .error _ => none

/-- How many bytes a rejected candidate with its tail at `t` gives up: all of it (R196), or all but its closing FLAG
(R198). -/
def rejectedLength (policy : ResyncPolicy) (t : Nat) : Nat :=
  match policy with
  | .consumeTail => t + 1
  | .reuseTail => t

/-- `RX_DECODE` (R197, R196, R198): the candidate is judged in `SCR`, then consumed. -/
def rxDecodeStep (arg : Half) (r : RxRun) : RxRun :=
  let cand := r.s.accFront r.tail
  let s' := r.s.scrWrite cand
  match judge r.s.params.maxPayload arg cand with
  | some p => { r with s := (s'.accPop (r.tail + 1)).setRxs .rxDeliver, payload := p }
  | none => { r with s := ((s'.accPop (rejectedLength r.s.params.policy r.tail)).scrHavoc).setRxs .rxLocate }

/-- One transition of `RXS` (R190). -/
def rxStep (arg : Half) (r : RxRun) : RxRun :=
  match r.s.rxs with
  | .idle      => r
  | .rxCheck   =>
    { r with s := if r.s.canReceive then r.s.setRxs .rxFill else (r.s.fail .configError).setRxs .idle }
  | .rxFill    => { r with s := rxFillStep r.s }
  | .rxLocate  => rxLocateStep r
  | .rxDecode  => rxDecodeStep arg r
  | .rxDeliver =>
    { r with s := (r.s.finish .ok (countResult r.payload.length) (some r.payload)).setRxs .idle }
  | .rxEmpty   => { r with s := (r.s.finish .ok 0 (some [])).setRxs .idle }

/-- The receive machine, at most `fuel` transitions, until it is `IDLE`. -/
def runRx (arg : Half) : (fuel : Nat) → RxRun → State
  | 0, r => r.s
  | n + 1, r => if r.s.rxs = .idle then r.s else runRx arg n (rxStep arg r)

/-- How many transitions one `LINE_RECEIVE` can take (R193, R201): the check, the polls that find room and the step
that ends the fill, then two for each candidate, whose number the bytes of the FIFO bound, and two to end. -/
def rxBound (s : State) : Nat := 3 * s.params.accCap + 2 * s.acc.length + 4

/-- The end of a run of the receive machine: it is back at `IDLE`, or it has exceeded its bound (log entry 7). -/
def rxOutcome (s : State) : Host.Outcome State Fault Refusal :=
  if s.rxs = .idle then .next s else .fault .workBoundExceeded

/-- `LINE_RECEIVE` (R189). -/
def execLineReceive (arg : Half) (s : State) : Host.Outcome State Fault Refusal :=
  rxOutcome (runRx arg (rxBound s) ⟨s.setRxs .rxCheck, 0, []⟩)

end Sys2Proof.Machine
end

