-- ==== Sys2Proof/Machine/Dispatch.lean ====
section
/-! DEFINITION. One arm per command: a direct call of its meaning. -/

namespace Sys2Proof.Machine

def exec (i : Instr) (s : State) : Host.Outcome State Fault Refusal :=
  match i with
  | .crcCompute din => Sys2Proof.Machine.execCrcCompute din s
  | .crcAppend arg din => Sys2Proof.Machine.execCrcAppend arg din s
  | .crcVerify din => Sys2Proof.Machine.execCrcVerify din s
  | .stuffEncode arg din => Sys2Proof.Machine.execStuffEncode arg din s
  | .stuffDecode din => Sys2Proof.Machine.execStuffDecode din s
  | .frameEncode din => Sys2Proof.Machine.execFrameEncode din s
  | .frameDecode din => Sys2Proof.Machine.execFrameDecode din s
  | .lineInit rx tx => Sys2Proof.Machine.execLineInit rx tx s
  | .lineSend din => Sys2Proof.Machine.execLineSend din s
  | .lineReceive arg => Sys2Proof.Machine.execLineReceive arg s

end Sys2Proof.Machine
end

