-- ==== Sys2Proof/Machine/Transact.lean ====
section
/-! DEFINITION. What a command transaction does: decode, check, run (30_encoding.md R85, R86). -/

namespace Sys2Proof.Machine

/-- A command transaction runs its command, or fails as an illegal one (30_encoding.md R85, R86). -/
def runTransaction (t : Transaction) (s : State) : Host.Outcome State Fault Refusal :=
  if t.wf then
    match decode t with
    | .ok i => exec i s
    | .error _ => .next s.illegalCommand
  else .refused .operandTooLong

end Sys2Proof.Machine
end

