-- ==== Sys2Proof/Machine/Step.lean ====
section
/-! DEFINITION. One step: the block takes the host's next event and runs it to completion (00_scope.md R9). -/

namespace Sys2Proof.Machine

/-- One step. With nothing presented the block holds its state (70_reset_and_hazards.md R251, 60_exceptions.md R235);
a reset is applied between commands (R250). A build that cannot exist (00_scope.md R10) and a command presented while
another is running (R262) are refused. -/
def step (s : State) : Host.Outcome State Fault Refusal :=
  if !s.params.legal then .refused .illegalBuild
  else if s.running then .refused .commandWhileRunning
  else
    match s.takeEvent with
    | none => .next s
    | some (.reset, s') => .next s'.applyReset
    | some (.command t, s') => runTransaction t s'

/-- `s` with the command whose bits the opcode table numbers `w` presented next (log entry 6). -/
def State.withFetchWord (s : State) (nbits w : Nat) : State := s.present (tableTransaction nbits w)

end Sys2Proof.Machine
end

