-- ==== Sys2Proof/Machine/Instances.lean ====
section
/-! DEFINITION. Several instances side by side (60_exceptions.md R233, 20_memory.md R69): each is a whole machine, and
they share nothing. How the answers of their ports past the listed ones relate is the model's choice, log entry 17. -/

namespace Sys2Proof.Machine

/-- One step of instance `k` of a system: the others stand still. An instance that does not exist changes nothing. -/
def stepInstance (k : Nat) (sys : List State) : Host.Outcome (List State) Fault Refusal :=
  match sys[k]? with
  | none => .next sys
  | some s =>
    match step s with
    | .next s' => .next (sys.set k s')
    | .fault f => .fault f
    | .refused r => .refused r

end Sys2Proof.Machine
end

