-- ==== Sys2Proof/Safety.lean ====
section
/-! DEFINITION. What the claims are stated in: the invariant of a reachable state, what a command returns and what it
leaves alone, and the pseudocode of 43_line_session.md R180 and R189 as loops over the port answers, beside the
machines of R181 and R190 that the meanings run. -/

namespace Sys2Proof.Machine

/-- `LCFG` is legal (10_state.md R22, R23): bits 7:3 are 0, and an uninitialised line owns nothing. -/
abbrev State.LcfgLegal (s : State) : Prop :=
  s.lcfg.extractLsb' 3 5 = 0 ∧ (s.inited = false → s.txEn = false ∧ s.rxEn = false)

/-- The result registers are legal (R26 to R28, 30_encoding.md R83): code 7 is never produced, a failure leaves no
data, and a result only with `TransportError`; data fit the scratch buffer. -/
abbrev State.ResultsLegal (s : State) : Prop :=
  s.status ≠ 7 ∧ (s.status ≠ Status.ok.code → s.dout = none) ∧
  (s.status ≠ Status.ok.code → s.status ≠ Status.transportError.code → s.result = 0) ∧
  (∀ d ∈ s.dout, d.length ≤ s.params.scratchCap)

/-- Both machines are `IDLE`, as they are between commands (R29). -/
abbrev State.Idle (s : State) : Prop := s.txs = .idle ∧ s.rxs = .idle

/-- A block that exists and is between commands: what a step asks of a state to take the host's next event. -/
abbrev State.Ready (s : State) : Prop := s.params.legal = true ∧ s.Idle

/-- The invariant: a block that exists, between commands, with a legal configuration, a FIFO within its capacity
(R24, 20_memory.md R56) and legal results. -/
abbrev State.Inv (s : State) : Prop :=
  s.Ready ∧ s.LcfgLegal ∧ s.acc.length ≤ s.params.accCap ∧ s.ResultsLegal

/-- `t` holds the given result (30_encoding.md R80): the three outputs of a command. -/
abbrev State.Holds (t : State) (st : Status) (r : Half) (d : Option (List Byte)) : Prop :=
  t.status = st.code ∧ t.result = r ∧ t.dout = d

/-- `t` and `s` have the same line: configuration and FIFO (43_line_session.md R211). -/
abbrev State.SameLine (s t : State) : Prop := t.lcfg = s.lcfg ∧ t.acc = s.acc

/-- No port was called between `s` and `t`: nothing outside the ports has moved (10_state.md R32). -/
abbrev State.SamePorts (s t : State) : Prop := t.ports = s.ports

/-- What no command changes: the build (R34), the machines' states between commands (R29), the host's queue. -/
abbrev State.SameRest (s t : State) : Prop :=
  t.params = s.params ∧ t.txs = s.txs ∧ t.rxs = s.rxs ∧ t.host = s.host

/-- A command ends in a next state that holds the given result and changes nothing but the result registers and
`SCR` (which is unspecified after every command, R25). -/
def Returns (o : Host.Outcome State Fault Refusal) (s : State) (st : Status) (r : Half) (d : Option (List Byte)) :
    Prop :=
  ∃ t, o = .next t ∧ t.Holds st r d ∧ s.SameLine t ∧ s.SamePorts t ∧ s.SameRest t

/-- The loop of R180 over the bytes of a frame: whether the sink accepted all, how many it accepted before the first
refusal, and what stands outside the ports afterwards. -/
def offerAll : List Byte → Ports → Bool × Nat × Ports
  | [], p => (true, 0, p)
  | b :: rest, p =>
    if (p.offer b).1 then
      let r := offerAll rest (p.offer b).2
      (r.1, r.2.1 + 1, r.2.2)
    else (false, 0, (p.offer b).2)

/-- The fill of R189 with room for `n` bytes: the FIFO and what stands outside the ports afterwards. -/
def fillLoop : (n : Nat) → List Byte → Ports → List Byte × Ports
  | 0, a, p => (a, p)
  | n + 1, a, p =>
    match p.poll.1 with
    | some b => fillLoop n (a ++ [b]) p.poll.2
    | none => (a, p.poll.2)

/-- The scan loop of R189, at most `n` passes: the FIFO afterwards, and the payload delivered, if any. -/
def scanLoop (params : Params) (arg : Half) : (n : Nat) → List Byte → List Byte × Option (List Byte)
  | 0, a => (a, none)
  | n + 1, a =>
    let l := locate params.candMax a
    match l.2 with
    | none => (l.1, none)
    | some t =>
      match judge params.maxPayload arg (l.1.take (t + 1)) with
      | some p => (l.1.drop (t + 1), some p)
      | none => scanLoop params arg n (l.1.drop (rejectedLength params.policy t))

/-- The fill of one `LINE_RECEIVE` (R192). -/
def State.filled (s : State) : List Byte × Ports :=
  fillLoop (s.params.accCap - s.acc.length) s.acc s.ports

/-- The scan of one `LINE_RECEIVE` over the bytes `a` of the FIFO (R189, R201). -/
def State.scanned (s : State) (arg : Half) (a : List Byte) : List Byte × Option (List Byte) :=
  scanLoop s.params arg (a.length + 1) a

/-- The command uses `ARG` (30_encoding.md R82, column "uses ARG"). -/
def usesArg : Instr → Bool
  | .crcAppend _ _ | .stuffEncode _ _ | .lineReceive _ => true
  | .crcCompute _ | .crcVerify _ | .stuffDecode _ | .frameEncode _ | .frameDecode _ | .lineInit _ _ | .lineSend _ =>
    false

/-- The command uses `DIN` (30_encoding.md R82, column "uses DIN"). -/
def usesDin : Instr → Bool
  | .lineInit _ _ | .lineReceive _ => false
  | .crcCompute _ | .crcAppend _ _ | .crcVerify _ | .stuffEncode _ _ | .stuffDecode _ | .frameEncode _
  | .frameDecode _ | .lineSend _ => true

/-- The pure commands (43_line_session.md R211, 92_eei_decisions.md D17): those of the codec, the stuffer and the
framer. -/
def isPure : Instr → Bool
  | .lineInit _ _ | .lineSend _ | .lineReceive _ => false
  | .crcCompute _ | .crcAppend _ _ | .crcVerify _ | .stuffEncode _ _ | .stuffDecode _ | .frameEncode _
  | .frameDecode _ => true

/-- The statuses each command can end with (60_exceptions.md R221). -/
def statusesOf : Instr → List Status
  | .crcCompute _ | .crcAppend _ _ | .crcVerify _ | .stuffEncode _ _ | .frameEncode _ => [.ok, .capacityError]
  | .stuffDecode _  => [.ok, .capacityError, .framingError]
  | .frameDecode _  => [.ok, .capacityError, .framingError, .integrityError]
  | .lineInit _ _   => [.ok]
  | .lineSend _     => [.ok, .configError, .capacityError, .transportError]
  | .lineReceive _  => [.ok, .configError]

/-- A command word is illegal (30_encoding.md R85): `OP` is 0x0 or 0xB to 0xF, or `SUB` is not one the operation
allows. -/
abbrev IllegalCmd (c : Byte) : Prop :=
  cmdOp c = 0 ∨ 0xB ≤ (cmdOp c).toNat ∨ (cmdOp c ≠ 0x8 ∧ cmdSub c ≠ 0) ∨
    (cmdOp c = 0x8 ∧ (cmdSub c).extractLsb' 2 2 ≠ 0)

/-- The event is a call on the sink. -/
def PortEvent.isOffer : PortEvent → Bool
  | .offer _ _ => true
  | .poll _ => false

/-- What a scan that delivers nothing leaves in `ACC` (43_line_session.md R200): nothing, or a FLAG followed by at most
`CAND_MAX` bytes, fewer than `ACC_CAP - 1`, none of them a FLAG. -/
def PartialCandidate (p : Params) (a : List Byte) : Prop :=
  a = [] ∨ ∃ c, a = flagByte :: c ∧ flagByte ∉ c ∧ c.length ≤ p.candMax

/-- `x` with bit `j` flipped (42_framer.md R156). -/
def flipBit (x : Byte) (j : Nat) : Byte := x ^^^ (1 <<< j)

/-- The CRC register after one bit of the bitwise, MSB-first computation (10_state.md R30, 40_crc.md R116). -/
def crcBit (c : Half) : Half := if c.getLsbD 15 then (c <<< 1) ^^^ 0x1021 else c <<< 1

/-- Eight such bits. -/
def crcBits8 (c : Half) : Half := crcBit (crcBit (crcBit (crcBit (crcBit (crcBit (crcBit (crcBit c)))))))

/-- The bitwise CRC of R116, which uses no table. -/
def crc16Bitwise (x : List Byte) : Half :=
  x.foldl (fun (c : Half) (b : Byte) => crcBits8 (c ^^^ ((b.setWidth 16 : Half) <<< 8))) 0xFFFF

end Sys2Proof.Machine
end

