-- ==== Sys2Proof/Certificates/Slice0/Obligations.lean ====
section
/-! DEFINITION. The claims: what the rules of spec/ say the block does. `Returns o s st r d` says that the command
ends in a next state with that result, the same line, ports, build, machine states and host queue; `SCR` is left out
because it is unspecified after every command (10_state.md R25). -/

open Sys2Proof Sys2Proof.Machine

/-! ### The command interface -/

/-- The block takes the host's next command from the queue and runs it (00_scope.md R9, 20_memory.md R65); a step adds
nothing around `exec` but that. -/
def Obligations.StepRunsTheDecodedCommand : Prop :=
  ∀ (s : State) (t : Transaction) (rest : List HostEvent) (i : Instr),
    s.Ready → s.host = .command t :: rest → t.wf = true → decode t = .ok i →
      step s = exec i { s with host := rest }

/-- The opcode map (30_encoding.md R82), one word per row and every form of `LINE_INIT`. -/
def Obligations.OpcodeMapDecodes : Prop :=
  ∀ (arg : Half) (din : List Byte),
    decode ⟨0x10, arg, din⟩ = .ok (.crcCompute din) ∧ decode ⟨0x20, arg, din⟩ = .ok (.crcAppend arg din) ∧
    decode ⟨0x30, arg, din⟩ = .ok (.crcVerify din) ∧ decode ⟨0x40, arg, din⟩ = .ok (.stuffEncode arg din) ∧
    decode ⟨0x50, arg, din⟩ = .ok (.stuffDecode din) ∧ decode ⟨0x60, arg, din⟩ = .ok (.frameEncode din) ∧
    decode ⟨0x70, arg, din⟩ = .ok (.frameDecode din) ∧ decode ⟨0x80, arg, din⟩ = .ok (.lineInit false false) ∧
    decode ⟨0x81, arg, din⟩ = .ok (.lineInit false true) ∧ decode ⟨0x82, arg, din⟩ = .ok (.lineInit true false) ∧
    decode ⟨0x83, arg, din⟩ = .ok (.lineInit true true) ∧ decode ⟨0x90, arg, din⟩ = .ok (.lineSend din) ∧
    decode ⟨0xA0, arg, din⟩ = .ok (.lineReceive arg)

/-- 30_encoding.md R85: every command word is one command or illegal, for exactly the reasons given, and thirteen
words are legal. -/
def Obligations.ThirteenWordsAreLegal : Prop :=
  ∀ t : Transaction,
    ((∃ i, decode t = .ok i) ↔
      t.cmd ∈ ([0x10, 0x20, 0x30, 0x40, 0x50, 0x60, 0x70, 0x80, 0x81, 0x82, 0x83, 0x90, 0xA0] : List Byte)) ∧
    ((∃ r, decode t = .error r) ↔ IllegalCmd t.cmd)

/-- 30_encoding.md R85: an illegal command fails with `CommandError`, changes nothing else and calls no port. -/
def Obligations.IllegalCommandFails : Prop :=
  ∀ (s : State) (t : Transaction) (rest : List HostEvent),
    s.Ready → s.host = .command t :: rest → t.wf = true → IllegalCmd t.cmd →
      Returns (step s) { s with host := rest } .commandError 0 none

/-- Decoding inverts encoding for every command and every operand, and the encoder gives back the command word and the
operands the command uses of whatever was decoded (30_encoding.md R80 to R82). -/
def Obligations.DecodeAndEncodeAgree : Prop :=
  (∀ i : Instr, decode (encode i) = .ok i) ∧
  ∀ (t : Transaction) (i : Instr), decode t = .ok i →
    (encode i).cmd = t.cmd ∧ (usesArg i = true → (encode i).arg = t.arg) ∧
      (usesDin i = true → (encode i).din = t.din)

/-- 30_encoding.md R87: operands a command does not use have no effect on the step. -/
def Obligations.UnusedOperandsAreIgnored : Prop :=
  ∀ (s : State) (t u : Transaction) (i : Instr),
    s.Ready → t.wf = true → u.wf = true → decode t = .ok i → u.cmd = t.cmd →
    (usesArg i = true → u.arg = t.arg) → (usesDin i = true → u.din = t.din) →
      step (s.present u) = step (s.present t)

/-- 70_reset_and_hazards.md R251, 60_exceptions.md R235: with nothing presented the block holds its state. -/
def Obligations.IdleBlockHoldsItsState : Prop :=
  ∀ s : State, s.Ready → s.host = [] → step s = .next s

/-- What a step refuses, by the model's choice. In every state with a machine that is not `IDLE` it refuses, whatever
the host presents or if it presents nothing: log entry 11, deduced from 70_reset_and_hazards.md R262, which speaks of
a command presented while another is running. It refuses a build that cannot exist (log entry 5, 00_scope.md R10) and
a data operand the interface cannot carry (log entry 13, 30_encoding.md R80). -/
def Obligations.StepRefusesWhatIsOutside : Prop :=
  (∀ s : State, s.params.legal = true → ¬ s.Idle → step s = .refused .commandWhileRunning) ∧
  (∀ s : State, s.params.maxPayload = 0 ∨ 32764 < s.params.maxPayload → step s = .refused .illegalBuild) ∧
  (∀ (s : State) (t : Transaction) (rest : List HostEvent), s.Ready → s.host = .command t :: rest →
    65535 < t.din.length → step s = .refused .operandTooLong)

/-! ### Reset -/

/-- 10_state.md R34: the state after reset, of the default build (00_scope.md R10, R12). -/
def Obligations.ResetStateIsAsSpecified : Prop :=
  State.reset.lcfg = 0x00 ∧ State.reset.inited = false ∧ State.reset.txEn = false ∧ State.reset.rxEn = false ∧
  State.reset.acc = [] ∧ State.reset.status = 0 ∧ State.reset.result = 0x0000 ∧ State.reset.dout = some [] ∧
  State.reset.txs = .idle ∧ State.reset.rxs = .idle ∧
  State.reset.params.maxPayload = 256 ∧ State.reset.params.policy = .consumeTail ∧ core.reset = State.reset

/-- 70_reset_and_hazards.md R250: a reset between commands puts the block into the reset state, whatever it was doing,
makes no port call and does not change the build. -/
def Obligations.ResetEventResetsTheBlock : Prop :=
  ∀ (s : State) (rest : List HostEvent), s.Ready → s.host = .reset :: rest →
    ∃ t, step s = .next t ∧ t.lcfg = 0x00 ∧ t.acc = [] ∧ t.Holds .ok 0 (some []) ∧ t.Idle ∧
      t.params = s.params ∧ t.ports = s.ports ∧ t.host = rest

/-! ### The CRC-16 codec -/

/-- 10_state.md R30: the ROM has 256 entries, each the register after eight shift steps of 0x1021 from `i << 8`. -/
def Obligations.CrcTableIsItsConstruction : Prop :=
  crcTab.length = 256 ∧ ∀ i : Byte, crcTabAt i = crcBits8 ((i.setWidth 16 : Half) <<< 8)

/-- 10_state.md R31, which the spec derives from R30: the properties of the ROM. -/
def Obligations.CrcTableProperties : Prop :=
  crcTabAt 0x00 = 0x0000 ∧ crcTabAt 0x01 = 0x1021 ∧ crcTabAt 0xFF = 0x1EF0 ∧
  (∀ a b : Byte, crcTabAt (a ^^^ b) = crcTabAt a ^^^ crcTabAt b) ∧
  crcTabAt 0x10 = 0x1231 ∧ crcTabAt 0x7E = 0x9F59 ∧ crcTabAt 0x80 = 0x9188 ∧
  (crcTab.map (fun v => v.extractLsb' 8 8)).dedup.length = 128 ∧
  ∀ i : Byte, crcTabAt i ≠ 0xFF00

/-- 40_crc.md R111. -/
def Obligations.CrcComputeReturnsTheCrc : Prop :=
  ∀ (s : State) (arg : Half) (din : List Byte),
    decode ⟨0x10, arg, din⟩ = .ok (.crcCompute din) ∧
    (s.params.maxOperand < din.length → Returns (exec (.crcCompute din) s) s .capacityError 0 none) ∧
    (din.length ≤ s.params.maxOperand → Returns (exec (.crcCompute din) s) s .ok (crc16 din) none)

/-- 40_crc.md R112. -/
def Obligations.CrcAppendAppendsHighByteFirst : Prop :=
  ∀ (s : State) (arg : Half) (din : List Byte),
    decode ⟨0x20, arg, din⟩ = .ok (.crcAppend arg din) ∧
    (s.params.scratchCap < din.length + 2 → Returns (exec (.crcAppend arg din) s) s .capacityError 0 none) ∧
    (din.length + 2 ≤ s.params.scratchCap →
      Returns (exec (.crcAppend arg din) s) s .ok (countResult (din.length + 2))
        (some (din ++ [arg.extractLsb' 8 8, arg.extractLsb' 0 8])))

/-- 40_crc.md R113: the verdict is a result, a mismatch no error. -/
def Obligations.CrcVerifyReturnsTheVerdict : Prop :=
  ∀ (s : State) (arg : Half) (din : List Byte),
    decode ⟨0x30, arg, din⟩ = .ok (.crcVerify din) ∧
    (s.params.maxOperand < din.length → Returns (exec (.crcVerify din) s) s .capacityError 0 none) ∧
    (din.length ≤ s.params.maxOperand →
      Returns (exec (.crcVerify din) s) s .ok (if crc16 din = 0 then 1 else 0) none)

/-- 40_crc.md R114 (items 2 and 3 the spec derives from R110): a sequence followed by its own CRC has residue zero; no
sequence shorter than two bytes has. -/
def Obligations.ResidueLaws : Prop :=
  (∀ p : List Byte, crc16 (p ++ be16 (crc16 p)) = 0x0000) ∧ crc16 [] = 0xFFFF ∧
  (∀ b : Byte, crc16 [b] = 0xFF00 ^^^ crcTabAt (0xFF ^^^ b) ∧ crc16 [b] ≠ 0) ∧
  ∀ x : List Byte, x.length < 2 → crc16 x ≠ 0

/-- 40_crc.md R116, which the spec marks as general knowledge: the table-driven CRC and the bitwise one are the same
function. -/
def Obligations.BitwiseCrcIsTheTableCrc : Prop :=
  ∀ x : List Byte, crc16Bitwise x = crc16 x

/-- 42_framer.md R156, case 1, which the spec marks as general knowledge: of a sequence with residue zero, flipping
any one bit gives a nonzero residue. -/
def Obligations.CrcDetectsEverySingleBitError : Prop :=
  ∀ (a b : List Byte) (x : Byte) (j : Nat), j < 8 → crc16 (a ++ x :: b) = 0 → crc16 (a ++ flipBit x j :: b) ≠ 0

/-! ### The byte stuffer -/

/-- 41_stuffer.md R131, which the spec derives from R130: the exact expansion and its bounds. -/
def Obligations.StuffExpansion : Prop :=
  ∀ x : List Byte,
    (stuff x).length = x.length + (x.filter (fun b => decide (b = 0x7E ∨ b = 0x7D))).length ∧
    x.length ≤ (stuff x).length ∧ (stuff x).length ≤ 2 * x.length

/-- 41_stuffer.md R133, byte by byte, in the form of the wire symbol table 30_encoding.md R89: what each symbol in the
interior of a frame decodes to, whatever follows it. -/
def Obligations.WireSymbolsDecode : Prop :=
  unstuff [] = some [] ∧
  ∀ (e : List Byte),
    (∀ b : Byte, b ≠ 0x7E → b ≠ 0x7D → unstuff (b :: e) = (unstuff e).map (b :: ·)) ∧
    unstuff (0x7D :: 0x5E :: e) = (unstuff e).map (0x7E :: ·) ∧
    unstuff (0x7D :: 0x5D :: e) = (unstuff e).map (0x7D :: ·) ∧
    (∀ x : Byte, x ≠ 0x5E → x ≠ 0x5D → unstuff (0x7D :: x :: e) = none) ∧
    unstuff [0x7D] = none ∧ unstuff (0x7E :: e) = none

/-- 41_stuffer.md R135, laws 1 to 5, which the spec derives from R130 and R133: round trip, no delimiter, every escape
followed by a valid target, canonical form, and no growth in decoding. -/
def Obligations.StufferLaws : Prop :=
  (∀ x, unstuff (stuff x) = some x) ∧
  (∀ x, (0x7E : Byte) ∉ stuff x) ∧
  (∀ x u v, stuff x = u ++ 0x7D :: v → v.head? = some 0x5E ∨ v.head? = some 0x5D) ∧
  (∀ e x, unstuff e = some x → e = stuff x) ∧
  (∀ e x, unstuff e = some x → x.length ≤ e.length)

/-- 41_stuffer.md R132. -/
def Obligations.StuffEncodeReturnsTheRegion : Prop :=
  ∀ (s : State) (arg : Half) (din : List Byte),
    decode ⟨0x40, arg, din⟩ = .ok (.stuffEncode arg din) ∧
    (s.params.maxOperand < din.length ∨ min arg.toNat s.params.scratchCap < (stuff din).length →
      Returns (exec (.stuffEncode arg din) s) s .capacityError 0 none) ∧
    (din.length ≤ s.params.maxOperand → (stuff din).length ≤ min arg.toNat s.params.scratchCap →
      Returns (exec (.stuffEncode arg din) s) s .ok (countResult (stuff din).length) (some (stuff din)))

/-- 41_stuffer.md R134. -/
def Obligations.StuffDecodeReturnsTheRegion : Prop :=
  ∀ (s : State) (arg : Half) (din : List Byte),
    decode ⟨0x50, arg, din⟩ = .ok (.stuffDecode din) ∧
    (s.params.maxOperand < din.length → Returns (exec (.stuffDecode din) s) s .capacityError 0 none) ∧
    (din.length ≤ s.params.maxOperand → unstuff din = none →
      Returns (exec (.stuffDecode din) s) s .framingError 0 none) ∧
    (∀ r, din.length ≤ s.params.maxOperand → unstuff din = some r →
      Returns (exec (.stuffDecode din) s) s .ok (countResult r.length) (some r))

/-! ### The framer and the deframer -/

/-- 30_encoding.md R90, which the spec derives from R88 and R131: the length of a frame; it fits the FIFO and the
scratch buffer of its build, and is longest exactly when every byte of the payload and of the CRC is escaped. -/
def Obligations.FrameLength : Prop :=
  ∀ p : List Byte,
    (frame p).length =
      p.length + 4 + ((p ++ be16 (crc16 p)).filter (fun b => decide (b = 0x7E ∨ b = 0x7D))).length ∧
    p.length + 4 ≤ (frame p).length ∧ (frame p).length ≤ 2 * p.length + 6 ∧
    ((frame p).length = 2 * p.length + 6 ↔ ∀ b ∈ p ++ be16 (crc16 p), b = 0x7E ∨ b = 0x7D) ∧
    ∀ b : Params, p.length ≤ b.maxPayload → (frame p).length ≤ b.scratchCap ∧ (frame p).length ≤ b.accCap

/-- 42_framer.md R151. -/
def Obligations.FrameEncodeReturnsTheFrame : Prop :=
  ∀ (s : State) (arg : Half) (din : List Byte),
    decode ⟨0x60, arg, din⟩ = .ok (.frameEncode din) ∧
    (s.params.maxPayload < din.length → Returns (exec (.frameEncode din) s) s .capacityError 0 none) ∧
    (din.length ≤ s.params.maxPayload →
      Returns (exec (.frameEncode din) s) s .ok (countResult (frame din).length)
        (some ([0x7E] ++ stuff (din ++ be16 (crc16 din)) ++ [0x7E])))

/-- 42_framer.md R152: the checks of the deframer, in order; the first that fails decides the error. -/
def Obligations.DeframerChecksInOrder : Prop :=
  ∀ (n : Nat) (f : List Byte),
    (f.length < 2 ∨ f.head? ≠ some 0x7E ∨ f.getLast? ≠ some 0x7E → deframe n f = .error .framingError) ∧
    ∀ e : List Byte, f = 0x7E :: e ++ [0x7E] →
      (unstuff e = none → deframe n f = .error .framingError) ∧
      ∀ u, unstuff e = some u →
        (crc16 u ≠ 0 → deframe n f = .error .integrityError) ∧
        (crc16 u = 0 → n < u.length - 2 → deframe n f = .error .capacityError) ∧
        (crc16 u = 0 → u.length - 2 ≤ n → deframe n f = .ok (u.take (u.length - 2)))

/-- 42_framer.md R153. -/
def Obligations.FrameDecodeReturnsThePayload : Prop :=
  ∀ (s : State) (arg : Half) (din : List Byte),
    decode ⟨0x70, arg, din⟩ = .ok (.frameDecode din) ∧
    (s.params.maxOperand < din.length → Returns (exec (.frameDecode din) s) s .capacityError 0 none) ∧
    (∀ e, din.length ≤ s.params.maxOperand → deframe s.params.maxPayload din = .error e →
      Returns (exec (.frameDecode din) s) s e 0 none) ∧
    (∀ p, din.length ≤ s.params.maxOperand → deframe s.params.maxPayload din = .ok p →
      Returns (exec (.frameDecode din) s) s .ok (countResult p.length) (some p))

/-- 42_framer.md R154: the round trip. -/
def Obligations.FrameRoundTrip : Prop :=
  ∀ (n : Nat) (p : List Byte), p.length ≤ n → deframe n (frame p) = .ok p

/-- 42_framer.md R155, which the spec derives from R150 and R135: a frame begins and ends with a FLAG and holds no
other, its length is bounded, and it is the only input the deframer maps to its payload. -/
def Obligations.FrameShape : Prop :=
  (∀ p : List Byte, ∃ e, frame p = 0x7E :: e ++ [0x7E] ∧ (0x7E : Byte) ∉ e ∧
    p.length + 4 ≤ (frame p).length ∧ (frame p).length ≤ 2 * p.length + 6) ∧
  ∀ (n : Nat) (f p : List Byte), deframe n f = .ok p → f = frame p

/-- 42_framer.md R156, cases 1 to 3: what the deframer answers when one bit of an interior byte of a frame is flipped.
The spec marks case 1 as general knowledge and derives the whole from R152. The interior is `stuff a`, then the unit
of one byte `x`, then `stuff b`. -/
def Obligations.SingleBitFlipVerdicts : Prop :=
  ∀ (n : Nat) (p a b : List Byte) (x : Byte) (j : Nat), j < 8 → p ++ be16 (crc16 p) = a ++ x :: b →
    (x ≠ 0x7E → x ≠ 0x7D → flipBit x j ≠ 0x7E → flipBit x j ≠ 0x7D →
      deframe n (0x7E :: (stuff a ++ flipBit x j :: stuff b) ++ [0x7E]) = .error .integrityError) ∧
    (x ≠ 0x7E → x ≠ 0x7D → flipBit x j = 0x7E →
      deframe n (0x7E :: (stuff a ++ flipBit x j :: stuff b) ++ [0x7E]) = .error .framingError) ∧
    (x = 0x7E ∨ x = 0x7D →
      deframe n (0x7E :: (stuff a ++ 0x7D :: flipBit (x ^^^ 0x20) j :: stuff b) ++ [0x7E]) = .error .framingError)

/-! ### The line session: configuration and transmit -/

/-- 43_line_session.md R171: the line is initialised with exactly the capabilities named, the FIFO is emptied, no port
is called. -/
def Obligations.LineInitConfiguresTheLine : Prop :=
  ∀ (s : State) (arg : Half) (din : List Byte) (rx tx : Bool),
    decode ⟨0x80 ||| (if rx then 0x02 else 0) ||| (if tx then 0x01 else 0), arg, din⟩ = .ok (.lineInit rx tx) ∧
    ∃ t, exec (.lineInit rx tx) s = .next t ∧ t.txEn = tx ∧ t.rxEn = rx ∧ t.inited = true ∧
      t.lcfg.extractLsb' 3 5 = 0 ∧ t.acc = [] ∧ t.Holds .ok 0 none ∧ s.SamePorts t ∧ s.SameRest t

/-- 43_line_session.md R182: the checks of a transmit, in order, both before any sink call. -/
def Obligations.LineSendChecksFirst : Prop :=
  ∀ (s : State) (din : List Byte), s.Idle →
    (s.inited = false ∨ s.txEn = false → Returns (exec (.lineSend din) s) s .configError 0 none) ∧
    (s.inited = true → s.txEn = true → s.params.maxPayload < din.length →
      Returns (exec (.lineSend din) s) s .capacityError 0 none)

/-- 43_line_session.md R180: past its checks, `LINE_SEND` is the loop of R180 over the bytes of the frame; the machine
of R181 always comes back to `IDLE`. -/
def Obligations.LineSendRunsItsLoop : Prop :=
  ∀ (s : State) (din : List Byte), s.inited = true → s.txEn = true → din.length ≤ s.params.maxPayload →
    ∃ t, exec (.lineSend din) s = .next t ∧ s.SameLine t ∧ t.ports = (offerAll (frame din) s.ports).2.2 ∧
      t.params = s.params ∧ t.txs = .idle ∧ t.rxs = s.rxs ∧ t.host = s.host ∧
      (if (offerAll (frame din) s.ports).1 then t.Holds .ok (countResult (frame din).length) none
       else t.Holds .transportError (countResult (offerAll (frame din) s.ports).2.1) none)

/-- 43_line_session.md R184, R185 (which the spec derives from R180): a sink that accepts every byte gets exactly the
frame, in order, one offer a byte. -/
def Obligations.LineSendTransmitsTheFrame : Prop :=
  ∀ (s : State) (din : List Byte) (more : List Bool),
    s.inited = true → s.txEn = true → din.length ≤ s.params.maxPayload →
    s.ports.sinkAnswers = List.replicate (frame din).length true ++ more →
    ∃ t, exec (.lineSend din) s = .next t ∧ t.Holds .ok (countResult (frame din).length) none ∧ s.SameLine t ∧
      t.ports = { s.ports with
        sinkAnswers := more, events := s.ports.events ++ (frame din).map (fun b => .offer b true) }

/-- 43_line_session.md R186: at the first refusal, of byte `i`, the command ends with `TransportError` and the count
`i`; `f[i]` has been offered and refused, and no later byte is offered. -/
def Obligations.LineSendStopsAtTheFirstRefusal : Prop :=
  ∀ (s : State) (din : List Byte) (i : Nat) (b : Byte) (more : List Bool),
    s.inited = true → s.txEn = true → din.length ≤ s.params.maxPayload → (frame din)[i]? = some b →
    s.ports.sinkAnswers = List.replicate i true ++ false :: more →
    ∃ t, exec (.lineSend din) s = .next t ∧ t.Holds .transportError (countResult i) none ∧ s.SameLine t ∧
      t.ports = { s.ports with
        sinkAnswers := more,
        events := s.ports.events ++ ((frame din).take i).map (fun c => .offer c true) ++ [.offer b false] }

/-! ### The line session: receive -/

/-- 43_line_session.md R191: no source call is made and `ACC` is unchanged. -/
def Obligations.LineReceiveChecksFirst : Prop :=
  ∀ (s : State) (arg : Half), s.Idle → s.inited = false ∨ s.rxEn = false →
    Returns (exec (.lineReceive arg) s) s .configError 0 none

/-- 43_line_session.md R189: past its check, `LINE_RECEIVE` is the fill and the scan loop of R189; it ends with `OK`
whatever the candidates were (R204, which the spec derives from R189 and R197), and the machine of R190 always comes
back to `IDLE` (R201, which the spec derives from R193, R195, R196 and R198). -/
def Obligations.LineReceiveRunsItsLoops : Prop :=
  ∀ (s : State) (arg : Half), s.inited = true → s.rxEn = true →
    ∃ t, exec (.lineReceive arg) s = .next t ∧ t.lcfg = s.lcfg ∧ t.ports = s.filled.2 ∧
      t.acc = (s.scanned arg s.filled.1).1 ∧ t.params = s.params ∧ t.txs = s.txs ∧ t.rxs = .idle ∧
      t.host = s.host ∧
      (match (s.scanned arg s.filled.1).2 with
       | some p => t.Holds .ok (countResult p.length) (some p)
       | none => t.Holds .ok 0 (some []))

/-- 43_line_session.md R192, R193 (which the spec derives from R192): the polls of one `LINE_RECEIVE`. The bytes taken
go to the end of `ACC` in order; either the FIFO is full then and no poll was answered with none, or there was room
left and the last poll, and only it, was. -/
def Obligations.FillTakesBytesInOrder : Prop :=
  ∀ (s : State) (arg : Half), s.inited = true → s.rxEn = true → s.acc.length ≤ s.params.accCap →
    ∃ t bytes, exec (.lineReceive arg) s = .next t ∧ t.acc = (s.scanned arg (s.acc ++ bytes)).1 ∧
      t.dout = some ((s.scanned arg (s.acc ++ bytes)).2.getD []) ∧
      ((s.acc.length + bytes.length = s.params.accCap ∧
          t.ports.events = s.ports.events ++ bytes.map (fun b => .poll (some b))) ∨
        (s.acc.length + bytes.length < s.params.accCap ∧
          t.ports.events = s.ports.events ++ bytes.map (fun b => .poll (some b)) ++ [.poll none]))

/-- 43_line_session.md R194, R195: the boundary detector, of a FIFO within its capacity. A tail it returns closes a
candidate at the head, with no FLAG between, within the length bounds, and only garbage was dropped. Where it returns
none, there were no two FLAGs. Of bytes without a FLAG it leaves nothing; of bytes with one, it keeps that FLAG and
all that follows it if at most `CAND_MAX` bytes do, and else nothing. That it keeps that FLAG of a full FIFO too, where
it is not the first byte (R195's words; R210's differ), is the model's choice, log entry 14. -/
def Obligations.DetectorFindsTheNextCandidate : Prop :=
  ∀ (p : Params) (a : List Byte), a.length ≤ p.accCap →
    (∀ t, (locate p.candMax a).2 = some t →
      ∃ g c rest, a = g ++ flagByte :: c ++ flagByte :: rest ∧ flagByte ∉ g ∧ flagByte ∉ c ∧ t = c.length + 1 ∧
        (locate p.candMax a).1 = flagByte :: c ++ flagByte :: rest ∧
        p.candMin ≤ t - 1 ∧ t - 1 ≤ p.candMax) ∧
    ((locate p.candMax a).2 = none →
      (a.filter (fun b => decide (b = flagByte))).length ≤ 1 ∧ PartialCandidate p (locate p.candMax a).1) ∧
    (flagByte ∉ a → locate p.candMax a = ([], none)) ∧
    (∀ g c, a = g ++ flagByte :: c → flagByte ∉ g → flagByte ∉ c →
      locate p.candMax a = if c.length ≤ p.candMax then (flagByte :: c, none) else ([], none))

/-- 43_line_session.md R196, R197, R199: a candidate at the head of the FIFO that is accepted is delivered and
consumed whole; what follows it stays for later commands. The source has nothing (or the FIFO is full). -/
def Obligations.AcceptedCandidateIsDelivered : Prop :=
  ∀ (s : State) (arg : Half) (c rest p : List Byte) (more : List (Option Byte)), s.Idle →
    s.inited = true → s.rxEn = true → s.ports.sourceAnswers = none :: more →
    s.acc = flagByte :: c ++ flagByte :: rest → flagByte ∉ c →
    deframe s.params.maxPayload (flagByte :: c ++ [flagByte]) = .ok p → p.length ≤ arg.toNat →
    ∃ t, exec (.lineReceive arg) s = .next t ∧ t.Holds .ok (countResult p.length) (some p) ∧ t.acc = rest ∧
      t.lcfg = s.lcfg ∧ s.SameRest t

/-- 43_line_session.md R196, R197, R198, R204: a candidate at the head of the FIFO that is rejected, by the deframer
or for the caller's capacity, is skipped: the command does what it does on a FIFO without it, the closing FLAG gone
under `CONSUME_TAIL` and kept under `REUSE_TAIL`. -/
def Obligations.RejectedCandidateIsSkipped : Prop :=
  ∀ (s : State) (arg : Half) (c rest : List Byte) (more : List (Option Byte)), s.Idle →
    s.inited = true → s.rxEn = true → s.ports.sourceAnswers = none :: more →
    s.acc = flagByte :: c ++ flagByte :: rest → flagByte ∉ c →
    (∀ p, deframe s.params.maxPayload (flagByte :: c ++ [flagByte]) = .ok p → arg.toNat < p.length) →
    ∃ t, exec (.lineReceive arg) s = .next t ∧
      (match s.params.policy with
       | .consumeTail => t.acc = (s.scanned arg rest).1 ∧
           t.Holds .ok (countResult ((s.scanned arg rest).2.getD []).length) (some ((s.scanned arg rest).2.getD []))
       | .reuseTail => t.acc = (s.scanned arg (flagByte :: rest)).1 ∧
           t.Holds .ok (countResult ((s.scanned arg (flagByte :: rest)).2.getD []).length)
             (some ((s.scanned arg (flagByte :: rest)).2.getD []))) ∧
      t.lcfg = s.lcfg ∧ s.SameRest t

/-- 43_line_session.md R200 (its last clause the spec derives from R195), R203: a scan that delivers nothing leaves
nothing or one partial candidate, the last bytes of those the FIFO held after the fill; and if these held one FLAG,
that FLAG and all that followed it are kept, unless more than `CAND_MAX` bytes did. That this holds too of a full FIFO
whose one FLAG is not first, where R210's words differ, is the model's choice, log entry 14. -/
def Obligations.NothingDeliveredLeavesAPartialCandidate : Prop :=
  ∀ (s : State) (arg : Half), s.inited = true → s.rxEn = true → s.acc.length ≤ s.params.accCap →
    (s.scanned arg s.filled.1).2 = none →
    ∃ t, exec (.lineReceive arg) s = .next t ∧ t.Holds .ok 0 (some []) ∧ PartialCandidate s.params t.acc ∧
      t.acc <:+ s.filled.1 ∧
      ∀ g c, s.filled.1 = g ++ flagByte :: c → flagByte ∉ g → flagByte ∉ c →
        t.acc = if c.length ≤ s.params.candMax then flagByte :: c else []

/-- 43_line_session.md R207 (which the spec derives from R192, R195 and R200), R203: one more byte of a frame arrives,
then none. Before the last byte the call returns `OK, 0, []` and keeps what has arrived; with the last byte it returns
the payload. -/
def Obligations.PartialArrival : Prop :=
  ∀ (s : State) (arg : Half) (p : List Byte) (k : Nat) (b : Byte) (more : List (Option Byte)),
    s.inited = true → s.rxEn = true → p.length ≤ s.params.maxPayload → p.length ≤ arg.toNat →
    s.acc = (frame p).take k → (frame p)[k]? = some b → s.ports.sourceAnswers = some b :: none :: more →
    ∃ t, exec (.lineReceive arg) s = .next t ∧
      (if k + 1 < (frame p).length then t.Holds .ok 0 (some []) ∧ t.acc = (frame p).take (k + 1)
       else t.Holds .ok (countResult p.length) (some p) ∧ t.acc = [])

/-- A frame the source holds whole is delivered: what R185 says is on the wire, R154 and R199 give back. -/
def Obligations.WholeFrameIsReceived : Prop :=
  ∀ (s : State) (arg : Half) (p : List Byte) (more : List (Option Byte)),
    s.inited = true → s.rxEn = true → s.acc = [] → p.length ≤ s.params.maxPayload → p.length ≤ arg.toNat →
    s.ports.sourceAnswers = (frame p).map some ++ none :: more →
    ∃ t, exec (.lineReceive arg) s = .next t ∧ t.Holds .ok (countResult p.length) (some p) ∧ t.acc = []

/-- 43_line_session.md R206, first case, which the spec derives from R195 to R198: a corrupted frame that keeps its
two FLAGs, holds no other and is rejected, followed by a valid frame, yields the valid frame's payload under both
policies; the corrupted bytes are consumed. -/
def Obligations.ResynchronizesPastACorruptedFrame : Prop :=
  ∀ (s : State) (arg : Half) (c p rest : List Byte) (more : List (Option Byte)),
    s.inited = true → s.rxEn = true → s.ports.sourceAnswers = none :: more →
    s.acc = flagByte :: c ++ flagByte :: (frame p ++ rest) → flagByte ∉ c →
    (∀ q, deframe s.params.maxPayload (flagByte :: c ++ [flagByte]) = .ok q → arg.toNat < q.length) →
    p.length ≤ s.params.maxPayload → p.length ≤ arg.toNat →
    ∃ t, exec (.lineReceive arg) s = .next t ∧ t.Holds .ok (countResult p.length) (some p) ∧ t.acc = rest

/-- 43_line_session.md R205, 70_reset_and_hazards.md R258, which the spec derives from R195 and R196: after a frame
that lost its closing FLAG, `CONSUME_TAIL` stays out of phase: of the frames that follow back-to-back none is
delivered, and their last FLAG stays as a head. -/
def Obligations.MisphaseUnderConsumeTail : Prop :=
  ∀ (s : State) (arg : Half) (c p : List Byte) (ps : List (List Byte)) (more : List (Option Byte)),
    s.inited = true → s.rxEn = true → s.params.policy = .consumeTail → s.ports.sourceAnswers = none :: more →
    s.acc = flagByte :: c ++ (p :: ps).flatMap frame → flagByte ∉ c →
    (∀ q, deframe s.params.maxPayload (flagByte :: c ++ [flagByte]) = .ok q → arg.toNat < q.length) →
    ∃ t, exec (.lineReceive arg) s = .next t ∧ t.Holds .ok 0 (some []) ∧ t.acc = [flagByte]

/-- 43_line_session.md R205, which the spec derives from R195 and R198: under `REUSE_TAIL` the frame whose opening
FLAG ended the rejected candidate is delivered. -/
def Obligations.ReuseTailRecoversTheNextFrame : Prop :=
  ∀ (s : State) (arg : Half) (c p rest : List Byte) (more : List (Option Byte)),
    s.inited = true → s.rxEn = true → s.params.policy = .reuseTail → s.ports.sourceAnswers = none :: more →
    s.acc = flagByte :: c ++ (frame p ++ rest) → flagByte ∉ c →
    (∀ q, deframe s.params.maxPayload (flagByte :: c ++ [flagByte]) = .ok q → arg.toNat < q.length) →
    p.length ≤ s.params.maxPayload → p.length ≤ arg.toNat →
    ∃ t, exec (.lineReceive arg) s = .next t ∧ t.Holds .ok (countResult p.length) (some p) ∧ t.acc = rest

/-- 43_line_session.md R208, which the spec derives from R197, R199 and R200: the empty payload is accepted for every
`ARG`, with the result of "nothing delivered"; it is consumed and the scan stops there. -/
def Obligations.EmptyPayloadLooksLikeNothing : Prop :=
  ∀ (s : State) (arg : Half) (rest : List Byte) (more : List (Option Byte)),
    s.inited = true → s.rxEn = true → s.ports.sourceAnswers = none :: more →
    s.acc = [0x7E, 0xFF, 0xFF, 0x7E] ++ rest →
    ∃ t, exec (.lineReceive arg) s = .next t ∧ t.Holds .ok 0 (some []) ∧ t.acc = rest

/-- 43_line_session.md R209, which the spec derives from R197: a payload longer than `ARG` is refused, and an `ARG` of
at least `MAX_PAYLOAD` refuses no frame the deframer accepts. -/
def Obligations.CapacityOfTheCaller : Prop :=
  ∀ (n : Nat) (arg : Half) (c p : List Byte), deframe n c = .ok p →
    (arg.toNat < p.length → judge n arg c = none) ∧ (n ≤ arg.toNat → judge n arg c = some p)

/-- 43_line_session.md R195, R210 (which the spec derives from R195): a full FIFO with no FLAG after its first byte is
dropped whole. A full FIFO whose one FLAG is not its first byte loses the bytes before that FLAG and keeps it with all
that follows: so R195's pseudocode says, where R210's words differ. That the pseudocode is followed is the model's
choice, log entry 14. -/
def Obligations.FullFifoWithoutATailIsDropped : Prop :=
  ∀ (s : State) (arg : Half), s.inited = true → s.rxEn = true → s.acc.length = s.params.accCap →
    (∀ b rest, s.acc = b :: rest → flagByte ∉ rest →
      ∃ t, exec (.lineReceive arg) s = .next t ∧ t.Holds .ok 0 (some []) ∧ t.acc = [] ∧ s.SamePorts t) ∧
    (∀ g c, s.acc = g ++ flagByte :: c → g ≠ [] → flagByte ∉ g → flagByte ∉ c →
      ∃ t, exec (.lineReceive arg) s = .next t ∧ t.Holds .ok 0 (some []) ∧ t.acc = flagByte :: c ∧ s.SamePorts t)

/-! ### Whole-machine rules -/

/-- 43_line_session.md R211, which the spec derives from the commands' rules: the pure commands touch neither the line
nor the ports; `LINE_SEND` touches neither `LCFG` nor `ACC` nor the source; `LINE_RECEIVE` touches neither `LCFG` nor
the sink; no command changes the build or the host's queue. -/
def Obligations.CommandsDoNotInterfere : Prop :=
  ∀ (i : Instr) (s t : State), exec i s = .next t →
    t.params = s.params ∧ t.host = s.host ∧
    (isPure i = true → s.SameLine t ∧ s.SamePorts t ∧ s.SameRest t) ∧
    (∀ din, i = .lineSend din → s.SameLine t ∧ t.rxs = s.rxs ∧
      t.ports.sourceAnswers = s.ports.sourceAnswers ∧
      ∃ ev, t.ports.events = s.ports.events ++ ev ∧ ∀ e ∈ ev, e.isOffer = true) ∧
    (∀ arg, i = .lineReceive arg → t.lcfg = s.lcfg ∧ t.txs = s.txs ∧
      t.ports.sinkAnswers = s.ports.sinkAnswers ∧
      ∃ ev, t.ports.events = s.ports.events ++ ev ∧ ∀ e ∈ ev, e.isOffer = false)

/-- 60_exceptions.md R220, 70_reset_and_hazards.md R267 (which the spec derives from R201 and R266): every command
ends in a next state, whatever the ports answer and whatever bytes arrive; none faults and none is refused. -/
def Obligations.EveryCommandEnds : Prop :=
  ∀ (i : Instr) (s : State), ∃ t, exec i s = .next t

/-- 60_exceptions.md R221, R225, derived there from the commands' rules: the statuses each command can end with. -/
def Obligations.StatusesAreThoseOfTheTable : Prop :=
  ∀ (i : Instr) (s t : State), exec i s = .next t → ∃ st ∈ statusesOf i, t.status = st.code

/-- 60_exceptions.md R222, derived there from the commands' rules: what a failing command changes. -/
def Obligations.FailingCommandChangesOnlyResults : Prop :=
  ∀ (i : Instr) (s t : State), exec i s = .next t → t.status ≠ Status.ok.code →
    s.SameLine t ∧ t.dout = none ∧
    (t.status ≠ Status.transportError.code → t.result = 0 ∧ s.SamePorts t) ∧
    (t.status = Status.transportError.code → ∃ din, i = .lineSend din)

/-- 20_memory.md R60, R61: a port is called only while its direction is enabled. -/
def Obligations.PortsAreCalledOnlyWhenEnabled : Prop :=
  ∀ (i : Instr) (s t : State), exec i s = .next t →
    ∃ ev, t.ports.events = s.ports.events ++ ev ∧
      ∀ e ∈ ev, s.inited = true ∧ (e.isOffer = true → s.txEn = true) ∧ (e.isOffer = false → s.rxEn = true)

/-- 70_reset_and_hazards.md R266, derived there from R181, R193 and R201: the port calls of one command are bounded:
none for a pure command or `LINE_INIT`, at most the bytes of a frame for `LINE_SEND`, at most `ACC_CAP + 1` for
`LINE_RECEIVE`. -/
def Obligations.PortCallsAreBounded : Prop :=
  ∀ (i : Instr) (s t : State), exec i s = .next t →
    (∀ din, i = .lineSend din → t.ports.events.length ≤ s.ports.events.length + (frame din).length) ∧
    (∀ din, i = .lineSend din → t.ports.events.length ≤ s.ports.events.length + (2 * s.params.maxPayload + 6)) ∧
    (∀ arg, i = .lineReceive arg → t.ports.events.length ≤ s.ports.events.length + (s.params.accCap + 1)) ∧
    (isPure i = true ∨ (∃ rx tx, i = .lineInit rx tx) → t.ports.events = s.ports.events)

/-- 00_scope.md R10, R14: with a legal build every length a command returns fits the 16-bit `RESULT`. -/
def Obligations.LengthsFitTheResult : Prop :=
  ∀ (p : Params) (n : Nat), p.legal = true → n ≤ p.scratchCap → (countResult n).toNat = n

/-- The invariant holds of the state after reset. -/
def Obligations.ResetStateMeetsTheInvariant : Prop := State.reset.Inv

/-- Every step keeps the invariant: the build exists, both machines are `IDLE` between commands (10_state.md R29),
`LCFG` is legal (R22, R23), the FIFO is within its capacity (R24, 20_memory.md R56) and the result registers are legal
(R26 to R28, 30_encoding.md R83). -/
def Obligations.StepKeepsTheInvariant : Prop :=
  ∀ s t : State, s.Inv → step s = .next t → t.Inv

/-- 20_memory.md R69, 60_exceptions.md R233: a step of one instance is a step of that machine and changes no other. -/
def Obligations.InstancesAreIsolated : Prop :=
  ∀ (k : Nat) (sys sys' : List State), stepInstance k sys = .next sys' →
    sys'.length = sys.length ∧ (∀ j, j ≠ k → sys'[j]? = sys[j]?) ∧
    ∀ s, sys[k]? = some s → ∃ s', step s = .next s' ∧ sys'[k]? = some s'
end

