-- ==== Sys2Proof/Laws/State.lean ====
section
/-! SUPPORT. One lemma per field per update of State, each true by rfl. -/

namespace Sys2Proof.Machine

variable (s : State)

@[simp] theorem State.accPop_params (n : Nat) : (s.accPop n).params = s.params := rfl
@[simp] theorem State.accPop_lcfg (n : Nat) : (s.accPop n).lcfg = s.lcfg := rfl
@[simp] theorem State.accPop_acc (n : Nat) : (s.accPop n).acc = s.acc.drop n := rfl
@[simp] theorem State.accPop_scr (n : Nat) : (s.accPop n).scr = s.scr := rfl
@[simp] theorem State.accPop_status (n : Nat) : (s.accPop n).status = s.status := rfl
@[simp] theorem State.accPop_result (n : Nat) : (s.accPop n).result = s.result := rfl
@[simp] theorem State.accPop_dout (n : Nat) : (s.accPop n).dout = s.dout := rfl
@[simp] theorem State.accPop_txs (n : Nat) : (s.accPop n).txs = s.txs := rfl
@[simp] theorem State.accPop_rxs (n : Nat) : (s.accPop n).rxs = s.rxs := rfl
@[simp] theorem State.accPop_ports (n : Nat) : (s.accPop n).ports = s.ports := rfl
@[simp] theorem State.accPop_host (n : Nat) : (s.accPop n).host = s.host := rfl

@[simp] theorem State.accPush_params (b : Byte) : (s.accPush b).params = s.params := rfl
@[simp] theorem State.accPush_lcfg (b : Byte) : (s.accPush b).lcfg = s.lcfg := rfl
@[simp] theorem State.accPush_acc (b : Byte) : (s.accPush b).acc = s.acc ++ [b] := rfl
@[simp] theorem State.accPush_scr (b : Byte) : (s.accPush b).scr = s.scr := rfl
@[simp] theorem State.accPush_status (b : Byte) : (s.accPush b).status = s.status := rfl
@[simp] theorem State.accPush_result (b : Byte) : (s.accPush b).result = s.result := rfl
@[simp] theorem State.accPush_dout (b : Byte) : (s.accPush b).dout = s.dout := rfl
@[simp] theorem State.accPush_txs (b : Byte) : (s.accPush b).txs = s.txs := rfl
@[simp] theorem State.accPush_rxs (b : Byte) : (s.accPush b).rxs = s.rxs := rfl
@[simp] theorem State.accPush_ports (b : Byte) : (s.accPush b).ports = s.ports := rfl
@[simp] theorem State.accPush_host (b : Byte) : (s.accPush b).host = s.host := rfl

@[simp] theorem State.accFlush_params : (s.accFlush).params = s.params := rfl
@[simp] theorem State.accFlush_lcfg : (s.accFlush).lcfg = s.lcfg := rfl
@[simp] theorem State.accFlush_acc : (s.accFlush).acc = [] := rfl
@[simp] theorem State.accFlush_scr : (s.accFlush).scr = s.scr := rfl
@[simp] theorem State.accFlush_status : (s.accFlush).status = s.status := rfl
@[simp] theorem State.accFlush_result : (s.accFlush).result = s.result := rfl
@[simp] theorem State.accFlush_dout : (s.accFlush).dout = s.dout := rfl
@[simp] theorem State.accFlush_txs : (s.accFlush).txs = s.txs := rfl
@[simp] theorem State.accFlush_rxs : (s.accFlush).rxs = s.rxs := rfl
@[simp] theorem State.accFlush_ports : (s.accFlush).ports = s.ports := rfl
@[simp] theorem State.accFlush_host : (s.accFlush).host = s.host := rfl

@[simp] theorem State.scrWrite_params (x : List Byte) : (s.scrWrite x).params = s.params := rfl
@[simp] theorem State.scrWrite_lcfg (x : List Byte) : (s.scrWrite x).lcfg = s.lcfg := rfl
@[simp] theorem State.scrWrite_acc (x : List Byte) : (s.scrWrite x).acc = s.acc := rfl
@[simp] theorem State.scrWrite_scr (x : List Byte) : (s.scrWrite x).scr = ⟨x, s.scr.epoch + 1⟩ := rfl
@[simp] theorem State.scrWrite_status (x : List Byte) : (s.scrWrite x).status = s.status := rfl
@[simp] theorem State.scrWrite_result (x : List Byte) : (s.scrWrite x).result = s.result := rfl
@[simp] theorem State.scrWrite_dout (x : List Byte) : (s.scrWrite x).dout = s.dout := rfl
@[simp] theorem State.scrWrite_txs (x : List Byte) : (s.scrWrite x).txs = s.txs := rfl
@[simp] theorem State.scrWrite_rxs (x : List Byte) : (s.scrWrite x).rxs = s.rxs := rfl
@[simp] theorem State.scrWrite_ports (x : List Byte) : (s.scrWrite x).ports = s.ports := rfl
@[simp] theorem State.scrWrite_host (x : List Byte) : (s.scrWrite x).host = s.host := rfl

@[simp] theorem State.scrHavoc_params : (s.scrHavoc).params = s.params := rfl
@[simp] theorem State.scrHavoc_lcfg : (s.scrHavoc).lcfg = s.lcfg := rfl
@[simp] theorem State.scrHavoc_acc : (s.scrHavoc).acc = s.acc := rfl
@[simp] theorem State.scrHavoc_scr : (s.scrHavoc).scr = ⟨[], s.scr.epoch + 1⟩ := rfl
@[simp] theorem State.scrHavoc_status : (s.scrHavoc).status = s.status := rfl
@[simp] theorem State.scrHavoc_result : (s.scrHavoc).result = s.result := rfl
@[simp] theorem State.scrHavoc_dout : (s.scrHavoc).dout = s.dout := rfl
@[simp] theorem State.scrHavoc_txs : (s.scrHavoc).txs = s.txs := rfl
@[simp] theorem State.scrHavoc_rxs : (s.scrHavoc).rxs = s.rxs := rfl
@[simp] theorem State.scrHavoc_ports : (s.scrHavoc).ports = s.ports := rfl
@[simp] theorem State.scrHavoc_host : (s.scrHavoc).host = s.host := rfl

@[simp] theorem State.finish_params (st : Status) (r : Half) (d : Option (List Byte)) : (s.finish st r d).params = s.params := rfl
@[simp] theorem State.finish_lcfg (st : Status) (r : Half) (d : Option (List Byte)) : (s.finish st r d).lcfg = s.lcfg := rfl
@[simp] theorem State.finish_acc (st : Status) (r : Half) (d : Option (List Byte)) : (s.finish st r d).acc = s.acc := rfl
@[simp] theorem State.finish_scr (st : Status) (r : Half) (d : Option (List Byte)) : (s.finish st r d).scr = ⟨[], s.scr.epoch + 1⟩ := rfl
@[simp] theorem State.finish_status (st : Status) (r : Half) (d : Option (List Byte)) : (s.finish st r d).status = st.code := rfl
@[simp] theorem State.finish_result (st : Status) (r : Half) (d : Option (List Byte)) : (s.finish st r d).result = r := rfl
@[simp] theorem State.finish_dout (st : Status) (r : Half) (d : Option (List Byte)) : (s.finish st r d).dout = d := rfl
@[simp] theorem State.finish_txs (st : Status) (r : Half) (d : Option (List Byte)) : (s.finish st r d).txs = s.txs := rfl
@[simp] theorem State.finish_rxs (st : Status) (r : Half) (d : Option (List Byte)) : (s.finish st r d).rxs = s.rxs := rfl
@[simp] theorem State.finish_ports (st : Status) (r : Half) (d : Option (List Byte)) : (s.finish st r d).ports = s.ports := rfl
@[simp] theorem State.finish_host (st : Status) (r : Half) (d : Option (List Byte)) : (s.finish st r d).host = s.host := rfl

@[simp] theorem State.fail_params (e : Status) : (s.fail e).params = s.params := rfl
@[simp] theorem State.fail_lcfg (e : Status) : (s.fail e).lcfg = s.lcfg := rfl
@[simp] theorem State.fail_acc (e : Status) : (s.fail e).acc = s.acc := rfl
@[simp] theorem State.fail_scr (e : Status) : (s.fail e).scr = ⟨[], s.scr.epoch + 1⟩ := rfl
@[simp] theorem State.fail_status (e : Status) : (s.fail e).status = e.code := rfl
@[simp] theorem State.fail_result (e : Status) : (s.fail e).result = 0 := rfl
@[simp] theorem State.fail_dout (e : Status) : (s.fail e).dout = none := rfl
@[simp] theorem State.fail_txs (e : Status) : (s.fail e).txs = s.txs := rfl
@[simp] theorem State.fail_rxs (e : Status) : (s.fail e).rxs = s.rxs := rfl
@[simp] theorem State.fail_ports (e : Status) : (s.fail e).ports = s.ports := rfl
@[simp] theorem State.fail_host (e : Status) : (s.fail e).host = s.host := rfl

@[simp] theorem State.setTxs_params (x : TxState) : (s.setTxs x).params = s.params := rfl
@[simp] theorem State.setTxs_lcfg (x : TxState) : (s.setTxs x).lcfg = s.lcfg := rfl
@[simp] theorem State.setTxs_acc (x : TxState) : (s.setTxs x).acc = s.acc := rfl
@[simp] theorem State.setTxs_scr (x : TxState) : (s.setTxs x).scr = s.scr := rfl
@[simp] theorem State.setTxs_status (x : TxState) : (s.setTxs x).status = s.status := rfl
@[simp] theorem State.setTxs_result (x : TxState) : (s.setTxs x).result = s.result := rfl
@[simp] theorem State.setTxs_dout (x : TxState) : (s.setTxs x).dout = s.dout := rfl
@[simp] theorem State.setTxs_txs (x : TxState) : (s.setTxs x).txs = x := rfl
@[simp] theorem State.setTxs_rxs (x : TxState) : (s.setTxs x).rxs = s.rxs := rfl
@[simp] theorem State.setTxs_ports (x : TxState) : (s.setTxs x).ports = s.ports := rfl
@[simp] theorem State.setTxs_host (x : TxState) : (s.setTxs x).host = s.host := rfl

@[simp] theorem State.setRxs_params (x : RxState) : (s.setRxs x).params = s.params := rfl
@[simp] theorem State.setRxs_lcfg (x : RxState) : (s.setRxs x).lcfg = s.lcfg := rfl
@[simp] theorem State.setRxs_acc (x : RxState) : (s.setRxs x).acc = s.acc := rfl
@[simp] theorem State.setRxs_scr (x : RxState) : (s.setRxs x).scr = s.scr := rfl
@[simp] theorem State.setRxs_status (x : RxState) : (s.setRxs x).status = s.status := rfl
@[simp] theorem State.setRxs_result (x : RxState) : (s.setRxs x).result = s.result := rfl
@[simp] theorem State.setRxs_dout (x : RxState) : (s.setRxs x).dout = s.dout := rfl
@[simp] theorem State.setRxs_txs (x : RxState) : (s.setRxs x).txs = s.txs := rfl
@[simp] theorem State.setRxs_rxs (x : RxState) : (s.setRxs x).rxs = x := rfl
@[simp] theorem State.setRxs_ports (x : RxState) : (s.setRxs x).ports = s.ports := rfl
@[simp] theorem State.setRxs_host (x : RxState) : (s.setRxs x).host = s.host := rfl

@[simp] theorem State.illegalCommand_params : (s.illegalCommand).params = s.params := rfl
@[simp] theorem State.illegalCommand_lcfg : (s.illegalCommand).lcfg = s.lcfg := rfl
@[simp] theorem State.illegalCommand_acc : (s.illegalCommand).acc = s.acc := rfl
@[simp] theorem State.illegalCommand_scr : (s.illegalCommand).scr = ⟨[], s.scr.epoch + 1⟩ := rfl
@[simp] theorem State.illegalCommand_status : (s.illegalCommand).status = Status.commandError.code := rfl
@[simp] theorem State.illegalCommand_result : (s.illegalCommand).result = 0 := rfl
@[simp] theorem State.illegalCommand_dout : (s.illegalCommand).dout = none := rfl
@[simp] theorem State.illegalCommand_txs : (s.illegalCommand).txs = s.txs := rfl
@[simp] theorem State.illegalCommand_rxs : (s.illegalCommand).rxs = s.rxs := rfl
@[simp] theorem State.illegalCommand_ports : (s.illegalCommand).ports = s.ports := rfl
@[simp] theorem State.illegalCommand_host : (s.illegalCommand).host = s.host := rfl

@[simp] theorem State.applyReset_params : (s.applyReset).params = s.params := rfl
@[simp] theorem State.applyReset_lcfg : (s.applyReset).lcfg = 0 := rfl
@[simp] theorem State.applyReset_acc : (s.applyReset).acc = [] := rfl
@[simp] theorem State.applyReset_scr : (s.applyReset).scr = ⟨[], s.scr.epoch + 1⟩ := rfl
@[simp] theorem State.applyReset_status : (s.applyReset).status = 0 := rfl
@[simp] theorem State.applyReset_result : (s.applyReset).result = 0 := rfl
@[simp] theorem State.applyReset_dout : (s.applyReset).dout = some [] := rfl
@[simp] theorem State.applyReset_txs : (s.applyReset).txs = .idle := rfl
@[simp] theorem State.applyReset_rxs : (s.applyReset).rxs = .idle := rfl
@[simp] theorem State.applyReset_ports : (s.applyReset).ports = s.ports := rfl
@[simp] theorem State.applyReset_host : (s.applyReset).host = s.host := rfl

@[simp] theorem State.present_params (t : Transaction) : (s.present t).params = s.params := rfl
@[simp] theorem State.present_lcfg (t : Transaction) : (s.present t).lcfg = s.lcfg := rfl
@[simp] theorem State.present_acc (t : Transaction) : (s.present t).acc = s.acc := rfl
@[simp] theorem State.present_scr (t : Transaction) : (s.present t).scr = s.scr := rfl
@[simp] theorem State.present_status (t : Transaction) : (s.present t).status = s.status := rfl
@[simp] theorem State.present_result (t : Transaction) : (s.present t).result = s.result := rfl
@[simp] theorem State.present_dout (t : Transaction) : (s.present t).dout = s.dout := rfl
@[simp] theorem State.present_txs (t : Transaction) : (s.present t).txs = .idle := rfl
@[simp] theorem State.present_rxs (t : Transaction) : (s.present t).rxs = .idle := rfl
@[simp] theorem State.present_ports (t : Transaction) : (s.present t).ports = s.ports := rfl
@[simp] theorem State.present_host (t : Transaction) : (s.present t).host = .command t :: s.host := rfl

@[simp] theorem State.sinkOffer_answer (b : Byte) : (s.sinkOffer b).1 = (s.ports.offer b).1 := rfl
@[simp] theorem State.sinkOffer_params (b : Byte) : (s.sinkOffer b).2.params = s.params := rfl
@[simp] theorem State.sinkOffer_lcfg (b : Byte) : (s.sinkOffer b).2.lcfg = s.lcfg := rfl
@[simp] theorem State.sinkOffer_acc (b : Byte) : (s.sinkOffer b).2.acc = s.acc := rfl
@[simp] theorem State.sinkOffer_scr (b : Byte) : (s.sinkOffer b).2.scr = s.scr := rfl
@[simp] theorem State.sinkOffer_status (b : Byte) : (s.sinkOffer b).2.status = s.status := rfl
@[simp] theorem State.sinkOffer_result (b : Byte) : (s.sinkOffer b).2.result = s.result := rfl
@[simp] theorem State.sinkOffer_dout (b : Byte) : (s.sinkOffer b).2.dout = s.dout := rfl
@[simp] theorem State.sinkOffer_txs (b : Byte) : (s.sinkOffer b).2.txs = s.txs := rfl
@[simp] theorem State.sinkOffer_rxs (b : Byte) : (s.sinkOffer b).2.rxs = s.rxs := rfl
@[simp] theorem State.sinkOffer_ports (b : Byte) : (s.sinkOffer b).2.ports = (s.ports.offer b).2 := rfl
@[simp] theorem State.sinkOffer_host (b : Byte) : (s.sinkOffer b).2.host = s.host := rfl

@[simp] theorem State.sourcePoll_answer : (s.sourcePoll).1 = s.ports.poll.1 := rfl
@[simp] theorem State.sourcePoll_params : (s.sourcePoll).2.params = s.params := rfl
@[simp] theorem State.sourcePoll_lcfg : (s.sourcePoll).2.lcfg = s.lcfg := rfl
@[simp] theorem State.sourcePoll_acc : (s.sourcePoll).2.acc = s.acc := rfl
@[simp] theorem State.sourcePoll_scr : (s.sourcePoll).2.scr = s.scr := rfl
@[simp] theorem State.sourcePoll_status : (s.sourcePoll).2.status = s.status := rfl
@[simp] theorem State.sourcePoll_result : (s.sourcePoll).2.result = s.result := rfl
@[simp] theorem State.sourcePoll_dout : (s.sourcePoll).2.dout = s.dout := rfl
@[simp] theorem State.sourcePoll_txs : (s.sourcePoll).2.txs = s.txs := rfl
@[simp] theorem State.sourcePoll_rxs : (s.sourcePoll).2.rxs = s.rxs := rfl
@[simp] theorem State.sourcePoll_ports : (s.sourcePoll).2.ports = s.ports.poll.2 := rfl
@[simp] theorem State.sourcePoll_host : (s.sourcePoll).2.host = s.host := rfl

end Sys2Proof.Machine
end

