-- ==== Sys2Proof/Laws/Ops.lean ====
section
/-! SUPPORT. What the shared operations can do: the ports, the operand check, the end of a command, the host's queue. -/

namespace Sys2Proof.Machine

@[simp] theorem Ports.offer_listed (p : Ports) (b : Byte) (a : Bool) (rest : List Bool)
    (h : p.sinkAnswers = a :: rest) :
    p.offer b = (a, { p with sinkAnswers := rest, events := p.events ++ [.offer b a] }) := by
  simp [Ports.offer, h]

@[simp] theorem Ports.poll_listed (p : Ports) (a : Option Byte) (rest : List (Option Byte))
    (h : p.sourceAnswers = a :: rest) :
    p.poll = (a, { p with sourceAnswers := rest, events := p.events ++ [.poll a] }) := by
  simp [Ports.poll, h]

/-- An offer appends its event and touches nothing of the source. -/
theorem Ports.offer_events (p : Ports) (b : Byte) :
    (p.offer b).2.events = p.events ++ [.offer b (p.offer b).1] ∧
      (p.offer b).2.sourceAnswers = p.sourceAnswers := by
  unfold Ports.offer; split <;> simp

/-- A poll appends its event and touches nothing of the sink. -/
theorem Ports.poll_events (p : Ports) :
    p.poll.2.events = p.events ++ [.poll p.poll.1] ∧ p.poll.2.sinkAnswers = p.sinkAnswers := by
  unfold Ports.poll; split <;> simp

/-- What `withOperand` answers, in both cases. -/
theorem State.withOperand_cases (s : State) (din : List Byte) (work : State) :
    (s.params.maxOperand < din.length ∧ s.withOperand din work = s.fail .capacityError) ∨
      (din.length ≤ s.params.maxOperand ∧ s.withOperand din work = work) := by
  unfold State.withOperand
  split
  · exact .inl ⟨‹_›, rfl⟩
  · exact .inr ⟨by omega, rfl⟩

@[simp] theorem State.withOperand_fits (s : State) (din : List Byte) (work : State)
    (h : din.length ≤ s.params.maxOperand) : s.withOperand din work = work := by
  simp [State.withOperand, Nat.not_lt.mpr h]

@[simp] theorem State.withOperand_tooLong (s : State) (din : List Byte) (work : State)
    (h : s.params.maxOperand < din.length) : s.withOperand din work = s.fail .capacityError := by
  simp [State.withOperand, h]

/-- The end of a command changes the result registers and `SCR`, nothing else. -/
theorem State.finish_sound (s : State) (st : Status) (r : Half) (d : Option (List Byte)) :
    (s.finish st r d).Holds st r d ∧ s.SameLine (s.finish st r d) ∧ s.SamePorts (s.finish st r d) ∧
      s.SameRest (s.finish st r d) :=
  ⟨⟨rfl, rfl, rfl⟩, ⟨rfl, rfl⟩, rfl, ⟨rfl, rfl, rfl, rfl⟩⟩

/-- A command whose next state is a `finish` of its own state returns the finished result. -/
theorem returns_finish (s : State) (st : Status) (r : Half) (d : Option (List Byte)) :
    Returns (.next (s.finish st r d)) s st r d := ⟨_, rfl, s.finish_sound st r d⟩

/-- The same for a command that has used `SCR` on the way. -/
theorem returns_scrWrite_finish (s : State) (x : List Byte) (st : Status) (r : Half) (d : Option (List Byte)) :
    Returns (.next ((s.scrWrite x).finish st r d)) s st r d :=
  ⟨_, rfl, ⟨rfl, rfl, rfl⟩, ⟨rfl, rfl⟩, rfl, ⟨rfl, rfl, rfl, rfl⟩⟩

/-- A failing command returns its error, 0 and no data. -/
theorem returns_fail (s : State) (e : Status) : Returns (.next (s.fail e)) s e 0 none := returns_finish s e 0 none

/-- Legality of the results depends on the result registers and the build alone. -/
theorem State.finish_resultsLegal (s : State) (st : Status) (r : Half) (d : Option (List Byte))
    (hd : st ≠ .ok → d = none) (hr : st ≠ .ok → st ≠ .transportError → r = 0)
    (hl : ∀ x ∈ d, x.length ≤ s.params.scratchCap) : (s.finish st r d).ResultsLegal := by
  cases st <;> simp_all [State.ResultsLegal, Status.code]

theorem State.takeEvent_cons (s : State) (e : HostEvent) (rest : List HostEvent) (h : s.host = e :: rest) :
    s.takeEvent = some (e, { s with host := rest }) := by
  simp [State.takeEvent, h]

@[simp] theorem State.accFull_eq_true (s : State) : s.accFull = true ↔ s.params.accCap ≤ s.acc.length :=
  decide_eq_true_iff

@[simp] theorem State.accFull_eq_false (s : State) : s.accFull = false ↔ s.acc.length < s.params.accCap := by
  rw [← Bool.not_eq_true, State.accFull_eq_true]; omega

theorem State.running_eq_false (s : State) : s.running = false ↔ s.Idle := by
  simp [State.running]

end Sys2Proof.Machine
end

