-- ==== Sys2Proof/Laws/Framer.lean ====
section
/-! SUPPORT. Small laws of the stuffer, the framer and the boundary detector that the machines' laws need. -/

namespace Sys2Proof.Machine

/-- The two constants of the stuffer, as the bytes R130 names. -/
theorem needsEscape_eq (b : Byte) : needsEscape b = decide (b = 0x7E ∨ b = 0x7D) := by
  revert b; decide

@[simp] theorem stuff_nil : stuff [] = [] := rfl

@[simp] theorem stuff_cons (b : Byte) (x : List Byte) : stuff (b :: x) = stuffByte b ++ stuff x := rfl

@[simp] theorem stuff_append (x y : List Byte) : stuff (x ++ y) = stuff x ++ stuff y := by
  simp [stuff]

theorem stuffByte_length (b : Byte) : 1 ≤ (stuffByte b).length ∧ (stuffByte b).length ≤ 2 := by
  unfold stuffByte; split <;> simp

theorem stuff_length_le (x : List Byte) : (stuff x).length ≤ 2 * x.length := by
  induction x with
  | nil => simp
  | cons b x ih => have := stuffByte_length b; simp; omega

@[simp] theorem unstuff_nil : unstuff [] = some [] := by simp [unstuff]

/-- The decoder on its next byte, as R133 reads it. -/
theorem unstuff_cons (b : Byte) (rest : List Byte) :
    unstuff (b :: rest) =
      if b = flagByte then none
      else if b = escapeByte then
        match rest with
        | [] => none
        | c :: rest' => if needsEscape (c ^^^ escXor) then (unstuff rest').map ((c ^^^ escXor) :: ·) else none
      else (unstuff rest).map (b :: ·) := by
  cases rest <;> rw [unstuff.eq_def]

@[simp] theorem be16_length (v : Half) : (be16 v).length = 2 := rfl

@[simp] theorem withCrc_length (p : List Byte) : (withCrc p).length = p.length + 2 := by simp [withCrc]

theorem frame_length (p : List Byte) : (frame p).length = (stuff (withCrc p)).length + 2 := by
  simp [frame]

theorem frame_length_le (p : List Byte) : (frame p).length ≤ 2 * p.length + 6 := by
  have := stuff_length_le (withCrc p)
  rw [withCrc_length] at this
  rw [frame_length]; omega

theorem frame_length_pos (p : List Byte) : 0 < (frame p).length := by rw [frame_length]; omega

/-- Check (a) of the deframer, read. -/
theorem hasBoundaries_iff (f : List Byte) :
    hasBoundaries f = true ↔ 2 ≤ f.length ∧ f.head? = some flagByte ∧ f.getLast? = some flagByte := by
  simp [hasBoundaries, and_assoc]

/-- Bytes between two FLAGs pass check (a), and they are the interior. -/
theorem boundaries_wrap (e : List Byte) :
    hasBoundaries (flagByte :: e ++ [flagByte]) = true ∧ frameInterior (flagByte :: e ++ [flagByte]) = e := by
  refine ⟨(hasBoundaries_iff _).2 ⟨by simp, by simp, by rw [List.getLast?_append]; simp⟩, by simp [frameInterior]⟩

/-- The detector only drops bytes from the head. -/
theorem locate_suffix (m : Nat) (a : List Byte) : (locate m a).1 <:+ a := by
  induction a with
  | nil => simp [locate]
  | cons b rest ih =>
    have hs : (locate m rest).1 <:+ b :: rest := ih.trans (List.suffix_cons b rest)
    simp only [locate]
    split
    · exact hs
    · split
      · exact List.suffix_rfl
      · split
        · exact hs
        · exact List.suffix_rfl

theorem locate_length_le (m : Nat) (a : List Byte) : (locate m a).1.length ≤ a.length :=
  (locate_suffix m a).length_le

theorem locate_garbage (m : Nat) {b : Byte} (rest : List Byte) (h : b ≠ flagByte) :
    locate m (b :: rest) = locate m rest := by
  simp only [locate, if_pos h]

theorem locate_found (m : Nat) {rest : List Byte} {j : Nat}
    (h : rest.findIdx? (fun x => decide (x = flagByte)) = some j) :
    locate m (flagByte :: rest) = (flagByte :: rest, some (j + 1)) := by
  rw [locate, if_neg (by simp), h]

theorem locate_notFound (m : Nat) {rest : List Byte}
    (h : rest.findIdx? (fun x => decide (x = flagByte)) = none) :
    locate m (flagByte :: rest) = if m < rest.length then locate m rest else (flagByte :: rest, none) := by
  rw [locate, if_neg (by simp), h]

/-- A tail lies inside the bytes the detector leaves, after their head. -/
theorem locate_tail_bounds {m : Nat} {a : List Byte} {t : Nat} (h : (locate m a).2 = some t) :
    1 ≤ t ∧ t < (locate m a).1.length := by
  induction a with
  | nil => simp [locate] at h
  | cons b rest ih =>
    by_cases hb : b = flagByte
    · subst hb
      cases hf : rest.findIdx? (fun x => decide (x = flagByte)) with
      | some j =>
        obtain ⟨hj, -⟩ := List.findIdx?_eq_some_iff_getElem.mp hf
        rw [locate_found m hf] at h ⊢
        simp at h ⊢; omega
      | none =>
        rw [locate_notFound m hf] at h ⊢
        split at h
        · rw [if_pos ‹_›]; exact ih h
        · simp at h
    · rw [locate_garbage m rest hb] at h ⊢
      exact ih h

theorem rejectedLength_pos (policy : ResyncPolicy) {t : Nat} (h : 1 ≤ t) : 1 ≤ rejectedLength policy t := by
  cases policy <;> simp only [rejectedLength] <;> omega

end Sys2Proof.Machine
end

