-- ==== Sys2Proof/Laws/Session.lean ====
section
/-! SUPPORT. What the two machines of the line session do when they are run: each of their loops once, as the loop of
the pseudocode (`offerAll`, `fillLoop`, `scanLoop`). The claims about LINE_SEND and LINE_RECEIVE cite these. -/

namespace Sys2Proof.Machine

@[simp] theorem txOutcome_idle (s : State) (h : s.txs = .idle) : txOutcome s = .next s := if_pos h

@[simp] theorem rxOutcome_idle (s : State) (h : s.rxs = .idle) : rxOutcome s = .next s := if_pos h

theorem State.canSend_eq_true (s : State) : s.canSend = true ↔ s.inited = true ∧ s.txEn = true := by
  simp [State.canSend]

theorem State.canSend_eq_false (s : State) : s.canSend = false ↔ s.inited = false ∨ s.txEn = false := by
  rw [State.canSend, Bool.and_eq_false_iff]

theorem State.canReceive_eq_true (s : State) : s.canReceive = true ↔ s.inited = true ∧ s.rxEn = true := by
  simp [State.canReceive]

theorem State.canReceive_eq_false (s : State) : s.canReceive = false ↔ s.inited = false ∨ s.rxEn = false := by
  rw [State.canReceive, Bool.and_eq_false_iff]

theorem runTx_idle (din : List Byte) (n : Nat) (r : TxRun) (h : r.s.txs = .idle) : runTx din n r = r.s := by
  cases n <;> simp [runTx, h]

theorem runTx_succ (din : List Byte) (n : Nat) (r : TxRun) (h : r.s.txs ≠ .idle) :
    runTx din (n + 1) r = runTx din n (txStep din r) := by
  simp [runTx, h]

theorem runRx_idle (arg : Half) (n : Nat) (r : RxRun) (h : r.s.rxs = .idle) : runRx arg n r = r.s := by
  cases n <;> simp [runRx, h]

theorem runRx_succ (arg : Half) (n : Nat) (r : RxRun) (h : r.s.rxs ≠ .idle) :
    runRx arg (n + 1) r = runRx arg n (rxStep arg r) := by
  simp [runRx, h]

/-- What a transmit that has built its frame ends in, given what the sink did from byte `i` on. -/
def txEnd (s : State) (len i : Nat) (o : Bool × Nat × Ports) : State :=
  if o.1 then ({ s with ports := o.2.2 }.finish .ok (countResult len) none).setTxs .idle
  else ({ s with ports := o.2.2 }.scrHavoc.finish .transportError (countResult (i + o.2.1)) none).setTxs .idle

/-- The emit loop of the transmit machine is the loop of R180. -/
theorem runTx_emit (din f : List Byte) (ep : Nat) :
    ∀ (k i n : Nat) (r : TxRun), f.length - i = k → i < f.length → r.s.txs = .txEmit i →
      r.s.scr = ⟨f, ep⟩ → r.len = f.length → k + 1 ≤ n →
      runTx din n r = txEnd r.s f.length i (offerAll (f.drop i) r.s.ports) := by
  intro k
  induction k with
  | zero => intro i n r hk hi; omega
  | succ k ih =>
    intro i n r hk hi htx hscr hlen hn
    obtain ⟨n, rfl⟩ : ∃ m, n = m + 1 := ⟨n - 1, by omega⟩
    have hdrop : f.drop i = f[i] :: f.drop (i + 1) := List.drop_eq_getElem_cons hi
    have hbyte : r.s.scrByte i = f[i] := by simp [State.scrByte, hscr, hi]
    rw [runTx_succ _ _ _ (by simp [htx])]
    have hstep : txStep din r = txEmitStep r i := by simp [txStep, htx]
    rw [hstep, hdrop]
    simp only [offerAll, txEmitStep, hbyte, hlen]
    by_cases hacc : (r.s.ports.offer f[i]).1 = true
    · simp only [State.sinkOffer_answer, hacc, if_true]
      by_cases hlast : i + 1 < f.length
      · simp only [hlast, if_true]
        rw [ih (i + 1) n ⟨(r.s.sinkOffer f[i]).2.setTxs (.txEmit (i + 1)), f.length, i + 1⟩ (by omega) hlast rfl
          (by simpa using hscr) rfl (by omega)]
        simp only [txEnd, State.finish, State.setTxs, State.scrHavoc, State.sinkOffer, Nat.add_assoc,
          Nat.add_comm 1]
      · obtain ⟨n, rfl⟩ : ∃ m, n = m + 1 := ⟨n - 1, by omega⟩
        have hnil : f.drop (i + 1) = [] := List.drop_eq_nil_of_le (by omega)
        simp only [hlast, if_false, hnil, offerAll]
        rw [runTx_succ _ _ _ (by simp), runTx_idle _ _ _ (by simp [txStep])]
        simp [txStep, txEnd, State.finish, State.setTxs, State.scrHavoc, State.sinkOffer]
    · obtain ⟨n, rfl⟩ : ∃ m, n = m + 1 := ⟨n - 1, by omega⟩
      simp only [State.sinkOffer_answer, hacc, if_false, Bool.false_eq_true]
      rw [runTx_succ _ _ _ (by simp), runTx_idle _ _ _ (by simp [txStep])]
      simp [txStep, txEnd, State.finish, State.setTxs, State.scrHavoc, State.sinkOffer]

/-- The fill loop of the receive machine is the loop of R189: it stops in `RX_LOCATE` with the FIFO and the ports
that loop gives. -/
theorem runRx_fill (arg : Half) :
    ∀ (k n : Nat) (r : RxRun), r.s.params.accCap - r.s.acc.length = k → r.s.rxs = .rxFill → k + 1 ≤ n →
      ∃ m, n ≤ m + (k + 1) ∧
        runRx arg n r = runRx arg m
          { r with s := { r.s with
              acc := (fillLoop k r.s.acc r.s.ports).1, ports := (fillLoop k r.s.acc r.s.ports).2,
              rxs := .rxLocate } } := by
  intro k
  induction k with
  | zero =>
    intro n r hk hrx hn
    obtain ⟨n, rfl⟩ : ∃ m, n = m + 1 := ⟨n - 1, by omega⟩
    refine ⟨n, by omega, ?_⟩
    rw [runRx_succ _ _ _ (by simp [hrx])]
    have hfull : r.s.accFull = true := by rw [State.accFull_eq_true]; omega
    simp [rxStep, hrx, rxFillStep, hfull, fillLoop, State.setRxs]
  | succ k ih =>
    intro n r hk hrx hn
    obtain ⟨n, rfl⟩ : ∃ m, n = m + 1 := ⟨n - 1, by omega⟩
    rw [runRx_succ _ _ _ (by simp [hrx])]
    have hfull : r.s.accFull = false := by rw [State.accFull_eq_false]; omega
    cases hp : r.s.ports.poll.1 with
    | none =>
      refine ⟨n, by omega, ?_⟩
      simp [rxStep, hrx, rxFillStep, hfull, fillLoop, hp, State.setRxs, State.sourcePoll]
    | some b =>
      have hr : rxStep arg r = { r with s := r.s.sourcePoll.2.accPush b } := by
        simp [rxStep, hrx, rxFillStep, hfull, hp]
      rw [hr]
      obtain ⟨m, hm, he⟩ := ih n { r with s := r.s.sourcePoll.2.accPush b } (by simp; omega) (by simpa using hrx)
        (by omega)
      refine ⟨m, by omega, ?_⟩
      rw [he]
      simp [fillLoop, hp, State.accPush, State.sourcePoll]

/-- What a receive that has filled its FIFO ends in, given what its scan gives. -/
def rxEnd (s : State) (l : List Byte × Option (List Byte)) (ep : Nat) : State :=
  let p := l.2.getD []
  ({ s with acc := l.1, scr := ⟨[], ep⟩ }.finish .ok (countResult p.length) (some p)).setRxs .idle

/-- The scan of the receive machine is the scan loop of R189: given two transitions for each byte of the FIFO and two
more, it ends, with the FIFO and the payload that loop gives. -/
theorem runRx_scan (arg : Half) :
    ∀ (k n : Nat) (r : RxRun), r.s.acc.length < k → r.s.rxs = .rxLocate → 2 * k ≤ n →
      ∃ ep, runRx arg n r = rxEnd r.s (scanLoop r.s.params arg k r.s.acc) ep := by
  intro k
  induction k with
  | zero => intro n r hk; omega
  | succ k ih =>
    intro n r hk hrx hn
    obtain ⟨n, rfl⟩ : ∃ m, n = m + 1 + 1 := ⟨n - 2, by omega⟩
    rw [runRx_succ _ _ _ (by simp [hrx])]
    have hstep : rxStep arg r = rxLocateStep r := by simp [rxStep, hrx]
    rw [hstep]
    simp only [scanLoop]
    have hle := locate_length_le r.s.params.candMax r.s.acc
    cases hl : (locate r.s.params.candMax r.s.acc).2 with
    | none =>
      refine ⟨r.s.scr.epoch, ?_⟩
      simp only [rxLocateStep, hl]
      rw [runRx_succ _ _ _ (by simp), runRx_idle _ _ _ (by simp [rxStep])]
      simp [rxStep, rxEnd, State.finish, State.setRxs, State.scrHavoc, countResult]
    | some t =>
      have hb := locate_tail_bounds hl
      simp only [rxLocateStep, hl]
      rw [runRx_succ _ _ _ (by simp)]
      have hd : ∀ q : RxRun, q.s.rxs = .rxDecode → rxStep arg q = rxDecodeStep arg q := by
        intro q hq; simp [rxStep, hq]
      rw [hd _ (by simp)]
      simp only [rxDecodeStep, State.accFront, State.setRxs_acc, State.setRxs_params]
      cases hj : judge r.s.params.maxPayload arg ((locate r.s.params.candMax r.s.acc).1.take (t + 1)) with
      | some p =>
        obtain ⟨n, rfl⟩ : ∃ m, n = m + 1 := ⟨n - 1, by omega⟩
        refine ⟨r.s.scr.epoch + 1, ?_⟩
        rw [runRx_succ _ _ _ (by simp), runRx_idle _ _ _ (by simp [rxStep])]
        simp [rxStep, rxEnd, State.finish, State.setRxs, State.scrHavoc, State.scrWrite, State.accPop]
      | none =>
        have hpos := rejectedLength_pos r.s.params.policy hb.1
        obtain ⟨ep, he⟩ := ih n
          ⟨((({ r.s with acc := (locate r.s.params.candMax r.s.acc).1 }.setRxs .rxDecode).scrWrite
              ((locate r.s.params.candMax r.s.acc).1.take (t + 1))).accPop
              (rejectedLength r.s.params.policy t)).scrHavoc.setRxs .rxLocate, t, r.payload⟩
          (by simp; omega) (by simp) (by omega)
        refine ⟨ep, ?_⟩
        simp only
        rw [he]
        simp [rxEnd, State.finish, State.setRxs, State.scrHavoc, State.scrWrite, State.accPop]

end Sys2Proof.Machine
end

