-- ==== Sys2Proof/Laws/Line.lean ====
section
/-! SUPPORT. Closed forms of `exec` for the two line commands, and how the detector and the scan treat a candidate at
the head of the FIFO. The claims about the line cite these and unfold no machine. -/

namespace Sys2Proof.Machine

/-- No FLAG is found exactly where there is none. -/
theorem findIdx_flag_none {c : List Byte} : c.findIdx? (fun x => decide (x = flagByte)) = none ↔ flagByte ∉ c := by
  rw [List.findIdx?_eq_none_iff]
  simp only [decide_eq_false_iff_not]
  exact ⟨fun h hm => h _ hm rfl, fun h x hx he => h (he ▸ hx)⟩

/-- Where a FLAG is found, what lies before it holds none. -/
theorem findIdx_flag_some {r : List Byte} {j} (h : r.findIdx? (fun x => decide (x = flagByte)) = some j) :
    ∃ c rest, r = c ++ flagByte :: rest ∧ flagByte ∉ c ∧ c.length = j := by
  induction r generalizing j with
  | nil => simp at h
  | cons b r ih =>
    rw [List.findIdx?_cons] at h
    split at h
    · rename_i hb
      cases h
      exact ⟨[], r, by simp [of_decide_eq_true hb], by simp, rfl⟩
    · rename_i hb
      cases hq : r.findIdx? (fun x => decide (x = flagByte)) with
      | none => rw [hq] at h; simp at h
      | some k =>
        rw [hq] at h; simp at h
        obtain ⟨c, rest, h1, h2, h3⟩ := ih hq
        refine ⟨b :: c, rest, by simp [h1], ?_, by simp; omega⟩
        intro hm
        rcases List.mem_cons.mp hm with hm | hm
        · apply hb; simp [← hm]
        · exact h2 hm

/-- The first FLAG is found behind bytes that hold none. -/
theorem findIdx_flag_append {c rest : List Byte} (h : flagByte ∉ c) :
    (c ++ flagByte :: rest).findIdx? (fun x => decide (x = flagByte)) = some c.length := by
  induction c with
  | nil => simp [List.findIdx?_cons]
  | cons b c ih =>
    have hb : b ≠ flagByte := fun e => h (by simp [e])
    have hc : flagByte ∉ c := fun e => h (by simp [e])
    rw [List.cons_append, List.findIdx?_cons, if_neg (by simpa using hb), ih hc]; rfl

/-- The detector finds the candidate at the head of the FIFO. -/
theorem locate_candidate (m) {c rest : List Byte} (h : flagByte ∉ c) :
    locate m (flagByte :: c ++ flagByte :: rest) = (flagByte :: c ++ flagByte :: rest, some (c.length + 1)) := by
  rw [List.cons_append]
  exact locate_found m (findIdx_flag_append h)

/-- The detector drops bytes that hold no FLAG. -/
theorem locate_skips (m) {g rest : List Byte} (h : flagByte ∉ g) : locate m (g ++ rest) = locate m rest := by
  induction g with
  | nil => rfl
  | cons b g ih =>
    rw [List.cons_append, locate_garbage m _ (fun e => h (by simp [e])), ih (fun e => h (by simp [e]))]

/-- One pass of the scan over a candidate at the head of the FIFO. -/
theorem scanLoop_candidate (P : Params) (arg : Half) (n) {c rest : List Byte} (h : flagByte ∉ c) :
    scanLoop P arg (n + 1) (flagByte :: c ++ flagByte :: rest) =
      match judge P.maxPayload arg (flagByte :: c ++ [flagByte]) with
      | some p => (rest, some p)
      | none => scanLoop P arg n (match P.policy with | .consumeTail => rest | .reuseTail => flagByte :: rest) := by
  rw [scanLoop]
  rw [locate_candidate _ h]
  have ht : (flagByte :: c ++ flagByte :: rest).take (c.length + 1 + 1) = flagByte :: c ++ [flagByte] := by
    have : c.length + 1 + 1 = (flagByte :: c ++ [flagByte]).length := by simp
    rw [this, show flagByte :: c ++ flagByte :: rest = (flagByte :: c ++ [flagByte]) ++ rest by simp]
    exact List.take_left
  have hd : (flagByte :: c ++ flagByte :: rest).drop (c.length + 1 + 1) = rest := by
    have : c.length + 1 + 1 = (flagByte :: c ++ [flagByte]).length := by simp
    rw [this, show flagByte :: c ++ flagByte :: rest = (flagByte :: c ++ [flagByte]) ++ rest by simp]
    exact List.drop_left
  have hd2 : (flagByte :: c ++ flagByte :: rest).drop (c.length + 1) = flagByte :: rest := by
    have : c.length + 1 = (flagByte :: c).length := by simp
    rw [this]
    exact List.drop_left
  simp only [ht, hd]
  cases judge P.maxPayload arg (flagByte :: c ++ [flagByte]) with
  | some p => rfl
  | none => cases P.policy <;> simp only [rejectedLength, hd, hd2]

/-- Once it exceeds the bytes of the FIFO, the number of passes the scan is given does not matter. -/
theorem scanLoop_fuel (P : Params) (arg : Half) :
    ∀ (n m : Nat) (a : List Byte), a.length < n → a.length < m → scanLoop P arg n a = scanLoop P arg m a := by
  intro n
  induction n with
  | zero => intro m a h; omega
  | succ n ih =>
    intro m a h1 h2
    obtain ⟨m, rfl⟩ : ∃ k, m = k + 1 := ⟨m - 1, by omega⟩
    rw [scanLoop, scanLoop]
    cases hl : (locate P.candMax a).2 with
    | none => simp only
    | some t =>
      simp only
      have hb := locate_tail_bounds hl
      have hle := locate_length_le P.candMax a
      have hp := rejectedLength_pos P.policy hb.1
      cases judge P.maxPayload arg ((locate P.candMax a).1.take (t + 1)) with
      | some p => rfl
      | none => exact ih m _ (by simp; omega) (by simp; omega)

/-- A scan only takes bytes from the head of the FIFO: what it leaves are the last of them. -/
theorem scanLoop_suffix (P : Params) (arg : Half) (n : Nat) (a : List Byte) : (scanLoop P arg n a).1 <:+ a := by
  induction n generalizing a with
  | zero => exact List.suffix_rfl
  | succ n ih =>
    have hl := locate_suffix P.candMax a
    rw [scanLoop]
    split
    · exact hl
    · split
      · exact (List.drop_suffix _ _).trans hl
      · exact ((ih _).trans (List.drop_suffix _ _)).trans hl

/-- A payload the deframer gives and the caller has room for is the verdict. -/
theorem judge_some {n arg c p} (h : deframe n c = .ok p) (hp : p.length ≤ (arg : Half).toNat) :
    judge n arg c = some p := by
  simp [judge, h, hp]

/-- A candidate the deframer rejects, or whose payload the caller has no room for, has no payload. -/
theorem judge_none {n arg c} (h : ∀ p, deframe n c = .ok p → (arg : Half).toNat < p.length) :
    judge n arg c = none := by
  unfold judge
  split
  · rename_i p hp; rw [if_neg (by have := h p hp; omega)]
  · rfl

/-- A fill only adds bytes, at most as many as there was room for. -/
theorem fillLoop_length :
    ∀ (n : Nat) a p, a.length ≤ (fillLoop n a p).1.length ∧ (fillLoop n a p).1.length ≤ a.length + n := by
  intro n
  induction n with
  | zero => intro a p; simp [fillLoop]
  | succ n ih =>
    intro a p
    simp only [fillLoop]
    split
    · rename_i b hb
      have := ih (a ++ [b]) p.poll.2
      simp at this
      omega
    · simp

/-- Where the source has nothing, the fill adds nothing. -/
theorem State.filled_quiet (s : State) (more) (h : s.ports.sourceAnswers = none :: more) :
    s.filled.1 = s.acc := by
  unfold State.filled
  cases s.params.accCap - s.acc.length with
  | zero => rfl
  | succ n => simp only [fillLoop, Ports.poll_listed _ _ _ h]

/-- `LINE_SEND` on a line that may not send. -/
theorem exec_lineSend_notConfigured (s : State) (din) (h : s.inited = false ∨ s.txEn = false) :
    exec (.lineSend din) s = .next ((s.setTxs .txCheck).fail .configError |>.setTxs .idle) := by
  have hc2 : (s.setTxs .txCheck).canSend = false := (s.canSend_eq_false).2 h
  have e : ∀ n, runTx din (n + 1) ⟨s.setTxs .txCheck, 0, 0⟩ =
      ((s.setTxs .txCheck).fail .configError |>.setTxs .idle) := by
    intro n
    rw [runTx_succ _ _ _ (by simp), runTx_idle] <;> simp [txStep, txCheckStep, hc2]
  simp only [exec, execLineSend, txBound]
  rw [e, txOutcome_idle _ rfl]

/-- `LINE_SEND` of a payload that is too long. -/
theorem exec_lineSend_tooLong (s : State) (din) (h : s.inited = true) (h' : s.txEn = true)
    (hl : s.params.maxPayload < din.length) :
    exec (.lineSend din) s = .next ((s.setTxs .txCheck).fail .capacityError |>.setTxs .idle) := by
  have hc2 : (s.setTxs .txCheck).canSend = true := (s.canSend_eq_true).2 ⟨h, h'⟩
  have e : ∀ n, runTx din (n + 1) ⟨s.setTxs .txCheck, 0, 0⟩ =
      ((s.setTxs .txCheck).fail .capacityError |>.setTxs .idle) := by
    intro n
    rw [runTx_succ _ _ _ (by simp), runTx_idle] <;> simp [txStep, txCheckStep, hc2, hl]
  simp only [exec, execLineSend, txBound]
  rw [e, txOutcome_idle _ rfl]

/-- `LINE_SEND` past its checks ends as the loop of R180 over the sink's answers says. -/
theorem exec_lineSend_runs (s : State) (din) (h : s.inited = true) (h' : s.txEn = true)
    (hl : din.length ≤ s.params.maxPayload) :
    ∃ s1, exec (.lineSend din) s = .next (txEnd s1 (frame din).length 0 (offerAll (frame din) s.ports)) ∧
      s1.params = s.params ∧ s1.lcfg = s.lcfg ∧ s1.acc = s.acc ∧ s1.ports = s.ports ∧ s1.host = s.host ∧
      s1.rxs = s.rxs := by
  have hc2 : (s.setTxs .txCheck).canSend = true := (s.canSend_eq_true).2 ⟨h, h'⟩
  refine ⟨(((s.setTxs .txCheck).setTxs .txBuild).scrWrite (frame din)).setTxs (.txEmit 0), ?_,
    rfl, rfl, rfl, rfl, rfl, rfl⟩
  simp only [exec, execLineSend]
  have hb : txBound s.params = 2 * s.params.maxPayload + 6 + 1 + 1 + 1 := rfl
  have hf := frame_length_le din
  rw [hb, runTx_succ _ _ _ (by simp), runTx_succ]
  · have e1 : txStep din (txStep din ⟨s.setTxs .txCheck, 0, 0⟩) =
        ⟨(((s.setTxs .txCheck).setTxs .txBuild).scrWrite (frame din)).setTxs (.txEmit 0), (frame din).length, 0⟩ := by
      simp [txStep, txCheckStep, hc2, Nat.not_lt.mpr hl]
    rw [e1]
    rw [runTx_emit din (frame din) (s.scr.epoch + 1) (frame din).length 0 _ _ (by omega) (frame_length_pos din)
      rfl rfl rfl (by omega)]
    rw [List.drop_zero, txOutcome_idle]
    · rfl
    · unfold txEnd; split <;> rfl
  · simp [txStep, txCheckStep, hc2, Nat.not_lt.mpr hl]

/-- `LINE_RECEIVE` on a line that may not receive. -/
theorem exec_lineReceive_notConfigured (s : State) (arg) (h : s.inited = false ∨ s.rxEn = false) :
    exec (.lineReceive arg) s = .next ((s.setRxs .rxCheck).fail .configError |>.setRxs .idle) := by
  have hc2 : (s.setRxs .rxCheck).canReceive = false := (s.canReceive_eq_false).2 h
  have e : ∀ n, runRx arg (n + 1) ⟨s.setRxs .rxCheck, 0, []⟩ =
      ((s.setRxs .rxCheck).fail .configError |>.setRxs .idle) := by
    intro n
    rw [runRx_succ _ _ _ (by simp), runRx_idle] <;> simp [rxStep, hc2]
  simp only [exec, execLineReceive, rxBound]
  rw [e, rxOutcome_idle _ rfl]

/-- `LINE_RECEIVE` past its check ends as the fill and the scan of R189 say. -/
theorem exec_lineReceive_runs (s : State) (arg) (h : s.inited = true) (h' : s.rxEn = true) :
    ∃ s1 ep, exec (.lineReceive arg) s = .next (rxEnd s1 (s.scanned arg s.filled.1) ep) ∧
      s1.params = s.params ∧ s1.lcfg = s.lcfg ∧ s1.ports = s.filled.2 ∧ s1.host = s.host ∧ s1.txs = s.txs := by
  have hc2 : (s.setRxs .rxCheck).canReceive = true := (s.canReceive_eq_true).2 ⟨h, h'⟩
  simp only [exec, execLineReceive]
  have hb : rxBound s = (3 * s.params.accCap + 2 * s.acc.length + 3) + 1 := rfl
  rw [hb, runRx_succ _ _ _ (by simp)]
  have e1 : rxStep arg ⟨s.setRxs .rxCheck, 0, []⟩ = ⟨(s.setRxs .rxCheck).setRxs .rxFill, 0, []⟩ := by
    simp [rxStep, hc2]
  rw [e1]
  obtain ⟨m, hm, he⟩ := runRx_fill arg (s.params.accCap - s.acc.length)
    (3 * s.params.accCap + 2 * s.acc.length + 3)
    ⟨(s.setRxs .rxCheck).setRxs .rxFill, 0, []⟩ rfl rfl (by omega)
  rw [he]
  have hfl := fillLoop_length (s.params.accCap - s.acc.length) s.acc s.ports
  have hfl' : s.filled.1.length ≤ s.acc.length + (s.params.accCap - s.acc.length) := hfl.2
  obtain ⟨ep, hs⟩ := runRx_scan arg (s.filled.1.length + 1) m
    { s := { (s.setRxs .rxCheck).setRxs .rxFill with acc := s.filled.1, ports := s.filled.2, rxs := .rxLocate },
      tail := 0, payload := [] }
    (Nat.lt_succ_self _) rfl (by omega)
  refine ⟨{ (s.setRxs .rxCheck).setRxs .rxFill with acc := s.filled.1, ports := s.filled.2, rxs := .rxLocate }, ep,
    ?_, rfl, rfl, rfl, rfl, rfl⟩
  exact (congrArg rxOutcome hs).trans (rxOutcome_idle _ rfl)

end Sys2Proof.Machine
end

