-- ==== Sys2Proof/Laws/PerInstr.lean ====
section
/-! SUPPORT. Statements about every command, as syntax, one lemma per constructor. -/

namespace Sys2Proof.Laws.EncodeWf

/-- Encoding keeps well-formedness: the interface can carry the transaction of a command exactly when it can carry the
command's data operand (30_encoding.md R80, R82). -/
def Statement (i : Instr) : Prop := (encode i).wf = i.wf

theorem crcCompute (din : List Byte) : Statement (.crcCompute din) := rfl
theorem crcAppend (arg : Half) (din : List Byte) : Statement (.crcAppend arg din) := rfl
theorem crcVerify (din : List Byte) : Statement (.crcVerify din) := rfl
theorem stuffEncode (arg : Half) (din : List Byte) : Statement (.stuffEncode arg din) := rfl
theorem stuffDecode (din : List Byte) : Statement (.stuffDecode din) := rfl
theorem frameEncode (din : List Byte) : Statement (.frameEncode din) := rfl
theorem frameDecode (din : List Byte) : Statement (.frameDecode din) := rfl
theorem lineInit (rx tx : Bool) : Statement (.lineInit rx tx) := rfl
theorem lineSend (din : List Byte) : Statement (.lineSend din) := rfl
theorem lineReceive (arg : Half) : Statement (.lineReceive arg) := rfl

end Sys2Proof.Laws.EncodeWf
end

