-- ==== Sys2Proof/Tests/Slice0.lean ====
section
/-! SUPPORT. The model's own tests. Expected values are the words of 30_encoding.md R82 and the vectors of
95_test_vectors.md, named in each comment; none is the model's own answer. Each runs one step. At the end, for every
claim with hypotheses, a witness: a concrete state and operands that meet them, for each clause, at the boundary values
of its range. -/

namespace Sys2Proof.Tests

set_option Elab.async false

open Sys2Proof Sys2Proof.Machine

/-! ### Helpers -/

/-- The block after reset, with the given line. -/
def withLine (lcfg : Byte) (acc : List Byte) : State := { State.reset with lcfg := lcfg, acc := acc }

/-- The default state with the given build. -/
def withBuild (maxPayload : Nat) (policy : ResyncPolicy) : State := State.resetOf ⟨maxPayload, policy⟩

/-- The source holds `x` and then has nothing. -/
def State.withSource (s : State) (x : List Byte) : State :=
  { s with ports := { s.ports with sourceAnswers := x.map some ++ [none] } }

/-- The sink answers `a`. -/
def State.withSink (s : State) (a : List Bool) : State := { s with ports := { s.ports with sinkAnswers := a } }

/-- The state one step later, where the host presents `t`. -/
def after (s : State) (t : Transaction) : Option State :=
  match step (s.present t) with
  | .next s' => some s'
  | .fault _ => none
  | .refused _ => none

/-- What the host reads after a step: `STATUS`, `RESULT`, `DOUT` (R80). -/
structure Outputs where
  status : BitVec 3
  result : Half
  dout   : Option (List Byte)
  deriving DecidableEq, Repr

/-- What the host reads after that step. -/
def outputs (s : State) (t : Transaction) : Option Outputs :=
  (after s t).map fun s' => ⟨s'.status, s'.result, s'.dout⟩

/-- "Hello \0" (V-SRC-1). -/
def hello : List Byte := [0x48, 0x65, 0x6C, 0x6C, 0x6F, 0x20, 0x00]

/-- The frame of "Hello \0" (V-SRC-1). -/
def helloFrame : List Byte := [0x7E, 0x48, 0x65, 0x6C, 0x6C, 0x6F, 0x20, 0x00, 0x96, 0x3D, 0x7E]

/-- " World!\0" (V-SRC-2). -/
def world : List Byte := [0x20, 0x57, 0x6F, 0x72, 0x6C, 0x64, 0x21, 0x00]

/-- The frame of " World!\0" (V-SRC-2). -/
def worldFrame : List Byte := [0x7E, 0x20, 0x57, 0x6F, 0x72, 0x6C, 0x64, 0x21, 0x00, 0x1E, 0x07, 0x7E]

/-- "123456789" (V-CRC-2). -/
def digits : List Byte := [0x31, 0x32, 0x33, 0x34, 0x35, 0x36, 0x37, 0x38, 0x39]

/-- The stream of V-RX-6. -/
def misphased : List Byte := [0x7E, 0x48, 0x65, 0x6C, 0x6C] ++ worldFrame ++ helloFrame ++ worldFrame

/-! ### Well-formedness -/

/-- A data operand too long for the interface (R80) is ill-formed in every command that has one, and in a
transaction. -/
theorem test_wf_refuses_long_operands (d : List Byte) (h : 65536 ≤ d.length) :
    (Instr.crcCompute d).wf = false ∧ (Instr.crcAppend 0 d).wf = false ∧ (Instr.crcVerify d).wf = false ∧
    (Instr.stuffEncode 0 d).wf = false ∧ (Instr.stuffDecode d).wf = false ∧ (Instr.frameEncode d).wf = false ∧
    (Instr.frameDecode d).wf = false ∧ (Instr.lineSend d).wf = false ∧ (Transaction.mk 0x10 0 d).wf = false := by
  have hd : dinFits d = false := by
    simp only [dinFits, maxDin, decide_eq_false_iff_not]
    omega
  simp only [Instr.wf, Transaction.wf, hd, and_self]

/-- A concrete such operand, one byte too long. -/
theorem test_wf_long_operand : (List.replicate 65536 (0 : Byte)).length = 65536 := List.length_replicate

/-- An operand of the greatest length is well-formed (R80). -/
theorem test_wf_longest_operand : (Instr.crcCompute (List.replicate 65535 0)).wf = true := by
  simp only [Instr.wf, dinFits, List.length_replicate, decide_eq_true_eq, Nat.le_refl]

/-! ### Decoding: the words of R82, R171 and R85, written out from the spec -/

theorem test_decode_crc :
    decode ⟨0b0001_0000, 0, hello⟩ = .ok (.crcCompute hello) ∧
    decode ⟨0b0010_0000, 0x29B1, hello⟩ = .ok (.crcAppend 0x29B1 hello) ∧
    decode ⟨0b0011_0000, 0, hello⟩ = .ok (.crcVerify hello) := by decide

theorem test_decode_stuffer :
    decode ⟨0b0100_0000, 5, hello⟩ = .ok (.stuffEncode 5 hello) ∧
    decode ⟨0b0101_0000, 0, hello⟩ = .ok (.stuffDecode hello) := by decide

theorem test_decode_framer :
    decode ⟨0b0110_0000, 0, hello⟩ = .ok (.frameEncode hello) ∧
    decode ⟨0b0111_0000, 0, hello⟩ = .ok (.frameDecode hello) := by decide

/-- `SUB[0]` is the sink, `SUB[1]` the source (R81). -/
theorem test_decode_line :
    decode ⟨0b1000_0000, 0, []⟩ = .ok (.lineInit false false) ∧
    decode ⟨0b1000_0001, 0, []⟩ = .ok (.lineInit false true) ∧
    decode ⟨0b1000_0010, 0, []⟩ = .ok (.lineInit true false) ∧
    decode ⟨0b1000_0011, 0, []⟩ = .ok (.lineInit true true) ∧
    decode ⟨0b1001_0000, 0, hello⟩ = .ok (.lineSend hello) ∧
    decode ⟨0b1010_0000, 0x0100, []⟩ = .ok (.lineReceive 0x0100) := by decide

/-- The legal words, numbered as the opcode table numbers them, and no other (R85: thirteen of 256). -/
theorem test_decode_thirteen_words :
    ((List.range 256).filter fun w => (decodeTableWord 8 w).isSome) =
      [0x10, 0x20, 0x30, 0x40, 0x50, 0x60, 0x70, 0x80, 0x81, 0x82, 0x83, 0x90, 0xA0] := by decide +kernel

/-- With 24 bits the table's word carries `ARG` above `CMD` (R80). -/
theorem test_decode_table_word_arg : decodeTableWord 24 0x0100A0 = some (.lineReceive 0x0100) := by decide

/-! ### The CRC-16 codec -/

/-- V-CRC-2, and V-CRC-11 with its ignored `ARG`. -/
theorem test_crcCompute_check_value :
    outputs State.reset ⟨0x10, 0, digits⟩ = some ⟨0, 0x29B1, none⟩ ∧
    outputs State.reset ⟨0x10, 0xBEEF, digits⟩ = some ⟨0, 0x29B1, none⟩ := by decide +kernel

/-- V-CRC-10. -/
theorem test_crcCompute_capacity :
    outputs State.reset ⟨0x10, 0, List.replicate 519 0⟩ = some ⟨2, 0, none⟩ := by decide +kernel

/-- V-CRC-12. -/
theorem test_crcAppend_big_endian :
    outputs State.reset ⟨0x20, 0x29B1, digits⟩ = some ⟨0, 11, some (digits ++ [0x29, 0xB1])⟩ := by decide +kernel

/-- V-CRC-14 and V-CRC-15. -/
theorem test_crcAppend_capacity :
    outputs State.reset ⟨0x20, 0, List.replicate 516 0⟩ = some ⟨0, 518, some (List.replicate 518 0)⟩ ∧
    outputs State.reset ⟨0x20, 0, List.replicate 517 0⟩ = some ⟨2, 0, none⟩ := by decide +kernel

/-- V-CRC-16 and V-CRC-18. -/
theorem test_crcVerify_match :
    outputs State.reset ⟨0x30, 0, digits ++ [0x29, 0xB1]⟩ = some ⟨0, 1, none⟩ ∧
    outputs State.reset ⟨0x30, 0, [0xFF, 0xFF]⟩ = some ⟨0, 1, none⟩ := by decide +kernel

/-- V-CRC-21 and V-CRC-19. -/
theorem test_crcVerify_mismatch :
    outputs State.reset ⟨0x30, 0, hello ++ [0x96, 0x3C]⟩ = some ⟨0, 0, none⟩ ∧
    outputs State.reset ⟨0x30, 0, []⟩ = some ⟨0, 0, none⟩ := by decide +kernel

/-! ### The byte stuffer -/

/-- V-STF-3 and V-STF-9. -/
theorem test_stuffEncode_escapes :
    outputs State.reset ⟨0x40, 5, [0x7E, 0x7D, 0x00]⟩ = some ⟨0, 5, some [0x7D, 0x5E, 0x7D, 0x5D, 0x00]⟩ ∧
    outputs State.reset ⟨0x40, 518, [0x5E, 0x5D, 0x20]⟩ = some ⟨0, 3, some [0x5E, 0x5D, 0x20]⟩ := by decide +kernel

/-- V-STF-2 and V-STF-7. -/
theorem test_stuffEncode_capacity :
    outputs State.reset ⟨0x40, 4, [0x7E, 0x7D, 0x00]⟩ = some ⟨2, 0, none⟩ ∧
    outputs State.reset ⟨0x40, 0xFFFF, List.replicate 300 0x7E⟩ = some ⟨2, 0, none⟩ := by decide +kernel

/-- V-STF-10 and V-STF-18. -/
theorem test_stuffDecode_region :
    outputs State.reset ⟨0x50, 0, [0x7D, 0x5E, 0x7D, 0x5D, 0x00]⟩ = some ⟨0, 3, some [0x7E, 0x7D, 0x00]⟩ ∧
    outputs State.reset ⟨0x50, 0, [0x5E]⟩ = some ⟨0, 1, some [0x5E]⟩ := by decide +kernel

/-- V-STF-12, V-STF-14, V-STF-15 and V-STF-17. -/
theorem test_stuffDecode_framing :
    outputs State.reset ⟨0x50, 0, [0x7D]⟩ = some ⟨4, 0, none⟩ ∧
    outputs State.reset ⟨0x50, 0, [0x7D, 0x41]⟩ = some ⟨4, 0, none⟩ ∧
    outputs State.reset ⟨0x50, 0, [0x7D, 0x7E]⟩ = some ⟨4, 0, none⟩ ∧
    outputs State.reset ⟨0x50, 0, [0x41, 0x7E, 0x42]⟩ = some ⟨4, 0, none⟩ := by decide +kernel

/-! ### The framer and the deframer -/

/-- V-FRM-5 and V-FRM-7: an escaped high byte and an escaped low byte of the CRC. -/
theorem test_frameEncode_escaped_crc :
    outputs State.reset ⟨0x60, 0, [0x7E]⟩ = some ⟨0, 7, some [0x7E, 0x7D, 0x5E, 0x7D, 0x5E, 0xA9, 0x7E]⟩ ∧
    outputs State.reset ⟨0x60, 0, [0x4A]⟩ = some ⟨0, 6, some [0x7E, 0x4A, 0x08, 0x7D, 0x5E, 0x7E]⟩ := by
  decide +kernel

/-- V-FRM-10, and V-FRM-11, the longest possible frame of its build. -/
theorem test_frameEncode_bounds :
    outputs State.reset ⟨0x60, 0, List.replicate 257 0⟩ = some ⟨2, 0, none⟩ ∧
    outputs (withBuild 9 .consumeTail) ⟨0x60, 0, [0x7D, 0x7D, 0x7D, 0x7E, 0x7E, 0x7D, 0x7E, 0x7E, 0x7E]⟩ =
      some ⟨0, 24, some [0x7E, 0x7D, 0x5D, 0x7D, 0x5D, 0x7D, 0x5D, 0x7D, 0x5E, 0x7D, 0x5E, 0x7D, 0x5D,
        0x7D, 0x5E, 0x7D, 0x5E, 0x7D, 0x5E, 0x7D, 0x5E, 0x7D, 0x5D, 0x7E]⟩ := by decide +kernel

/-- V-FRM-14 and V-FRM-12, the false accept of R156. -/
theorem test_frameDecode_payload :
    outputs State.reset ⟨0x70, 0, helloFrame⟩ = some ⟨0, 7, some hello⟩ ∧
    outputs State.reset ⟨0x70, 0, [0x7E, 0x7D, 0x5E, 0x5F, 0x7F, 0x5E, 0x75, 0x5E, 0x24, 0x27, 0x7E]⟩ =
      some ⟨0, 6, some [0x7E, 0x5F, 0x7F, 0x5E, 0x75, 0x5E]⟩ := by decide +kernel

/-- V-FRM-18, V-FRM-19, V-FRM-23, V-FRM-26 and V-FRM-27: the order of the checks. -/
theorem test_frameDecode_errors :
    outputs State.reset ⟨0x70, 0, [0x7E, 0x7E]⟩ = some ⟨5, 0, none⟩ ∧
    outputs State.reset ⟨0x70, 0, [0x7E, 0x7E, 0x7E]⟩ = some ⟨4, 0, none⟩ ∧
    outputs State.reset ⟨0x70, 0, [0x00, 0x7E, 0xFF, 0xFF, 0x7E]⟩ = some ⟨4, 0, none⟩ ∧
    outputs (withBuild 4 .consumeTail) ⟨0x70, 0, [0x7E, 0x41, 0x42, 0x43, 0x44, 0x45, 0xB4, 0x55, 0x7E]⟩ =
      some ⟨2, 0, none⟩ ∧
    outputs State.reset ⟨0x70, 0, List.replicate 519 0⟩ = some ⟨2, 0, none⟩ := by decide +kernel

/-! ### The line session -/

/-- V-LINE-7. -/
theorem test_lineInit_flushes :
    (after (withLine 0x07 [0x7E, 0x48, 0x65]) ⟨0x82, 0, []⟩).map (fun s => (s.status, s.lcfg, s.acc)) =
      some (0, 0x06, []) := by decide +kernel

/-- V-LINE-3 and the end states of V-LINE-5 and V-LINE-6. -/
theorem test_lineInit_capabilities :
    (after State.reset ⟨0x83, 0, []⟩).map (·.lcfg) = some 0x07 ∧
    (after State.reset ⟨0x81, 0, []⟩).map (·.lcfg) = some 0x05 ∧
    (after State.reset ⟨0x80, 0, []⟩).map (·.lcfg) = some 0x04 := by decide +kernel

/-- V-TX-5: six offers, the last refused, and no seventh. -/
theorem test_lineSend_refused :
    (after (State.withSink (withLine 0x07 []) [true, true, true, true, true, false, true]) ⟨0x90, 0, hello⟩).map
      (fun s => (s.status, s.result, s.ports.sinkAnswers, s.ports.events)) =
    some (3, 5, [true], [.offer 0x7E true, .offer 0x48 true, .offer 0x65 true, .offer 0x6C true, .offer 0x6C true,
      .offer 0x6F false]) := by decide +kernel

/-- V-LINE-1, V-LINE-4 and V-TX-8: no port is called. -/
theorem test_lineSend_checks :
    outputs State.reset ⟨0x90, 0, hello⟩ = some ⟨1, 0, none⟩ ∧
    outputs (withLine 0x06 []) ⟨0x90, 0, [0x78]⟩ = some ⟨1, 0, none⟩ ∧
    (after (withLine 0x07 []) ⟨0x90, 0, List.replicate 257 0⟩).map (fun s => (s.status, s.ports.events)) =
      some (2, []) := by decide +kernel

/-- V-RX-6, call 1, under both policies. -/
theorem test_lineReceive_misphase :
    (after (State.withSource (withLine 0x06 []) misphased) ⟨0xA0, 256, []⟩).map
      (fun s => (s.status, s.result, s.dout, s.acc)) = some (0, 0, some [], [0x7E]) ∧
    (after (State.withSource { withLine 0x06 [] with params := ⟨256, .reuseTail⟩ } misphased) ⟨0xA0, 256, []⟩).map
      (fun s => (s.status, s.result, s.dout, s.acc)) = some (0, 8, some world, helloFrame ++ worldFrame) := by
  refine ⟨?_, ?_⟩ <;> decide +kernel

/-- V-RX-9, call 1: the fill stops at full, one byte stays in the source; V-RX-10, call 1: a full FIFO with no tail;
V-LINE-5: a line that owns no source. -/
theorem test_lineReceive_full_fifo :
    (after (State.withSource { withLine 0x06 [] with params := ⟨4, .consumeTail⟩ }
        [0x7E, 0x41, 0x42, 0x43, 0x44, 0x45, 0xB4, 0x55, 0x7E, 0x7E, 0x41, 0x42, 0x4B, 0x74, 0x7E]) ⟨0xA0, 256, []⟩).map
      (fun s => (s.status, s.dout, s.acc, s.ports.sourceAnswers)) =
      some (0, some [], [0x7E, 0x41, 0x42, 0x4B, 0x74], [some 0x7E, none]) ∧
    (after (State.withSource { withLine 0x06 [] with params := ⟨4, .consumeTail⟩ }
        (0x7E :: List.replicate 20 0x11)) ⟨0xA0, 256, []⟩).map
      (fun s => (s.status, s.acc, s.ports.sourceAnswers.length)) = some (0, [], 8) ∧
    outputs (withLine 0x05 []) ⟨0xA0, 256, []⟩ = some ⟨1, 0, none⟩ := by decide +kernel

/-! ### Illegal commands and reset -/

/-- V-LINE-8 to V-LINE-10. -/
theorem test_illegal_commands :
    outputs State.reset ⟨0x84, 0, []⟩ = some ⟨6, 0, none⟩ ∧ outputs State.reset ⟨0x91, 0, []⟩ = some ⟨6, 0, none⟩ ∧
    outputs State.reset ⟨0x00, 0, []⟩ = some ⟨6, 0, none⟩ ∧ outputs State.reset ⟨0xB0, 0, []⟩ = some ⟨6, 0, none⟩ ∧
    outputs State.reset ⟨0xFF, 0, []⟩ = some ⟨6, 0, none⟩ := by decide +kernel

/-- The host's probe: the placed word runs as the very next step (V-LINE-3). -/
theorem test_withFetchWord_runs :
    (match step (State.reset.withFetchWord 8 0x83) with
     | .next s => some s.lcfg
     | .fault _ => none
     | .refused _ => none) = some 0x07 := by decide +kernel

/-! ### Witnesses: the command interface and reset -/

/-- The block after reset with the given events presented. -/
def presented (h : List HostEvent) : State := { State.reset with host := h }

theorem witness_StepRunsTheDecodedCommand :
    let t : Transaction := ⟨0x10, 0, hello⟩
    (presented [.command t, .reset]).Ready ∧ (presented [.command t, .reset]).host = .command t :: [.reset] ∧
      t.wf = true ∧ decode t = .ok (.crcCompute hello) := by decide

/-- The ends of the ranges of R85, legal and illegal words next to each other. -/
theorem witness_ThirteenWordsAreLegal :
    decode ⟨0x10, 0, []⟩ = .ok (.crcCompute []) ∧ decode ⟨0xA0, 0, []⟩ = .ok (.lineReceive 0) ∧
    decode ⟨0x83, 0, []⟩ = .ok (.lineInit true true) ∧ decode ⟨0x84, 0, []⟩ = .error (.reservedSub 4) ∧
    decode ⟨0x0F, 0, []⟩ = .error (.reservedOp 0) ∧ decode ⟨0x11, 0, []⟩ = .error (.reservedSub 1) ∧
    decode ⟨0xB0, 0, []⟩ = .error (.reservedOp 11) ∧ decode ⟨0xFF, 0, []⟩ = .error (.reservedOp 15) := by decide

theorem witness_IllegalCommandFails :
    (presented [.command ⟨0x84, 0, []⟩]).Ready ∧
    (presented [.command ⟨0x84, 0, []⟩]).host = .command ⟨0x84, 0, []⟩ :: [] ∧
    (Transaction.mk 0x84 0 []).wf = true ∧ (cmdOp 0x84 = 0x8 ∧ (cmdSub 0x84).extractLsb' 2 2 ≠ 0) ∧
    cmdOp 0x0F = 0 ∧ 0xB ≤ (cmdOp 0xB0).toNat ∧ 0xB ≤ (cmdOp 0xFF).toNat ∧ (cmdOp 0x91 ≠ 0x8 ∧ cmdSub 0x91 ≠ 0) := by
  decide

theorem witness_DecodeAndEncodeAgree :
    decode ⟨0x20, 0x29B1, hello⟩ = .ok (.crcAppend 0x29B1 hello) ∧ usesArg (.crcAppend 0x29B1 hello) = true ∧
      usesDin (.crcAppend 0x29B1 hello) = true := by decide

/-- Two transactions that differ in an operand `CRC_COMPUTE` ignores. -/
theorem witness_UnusedOperandsAreIgnored :
    let t : Transaction := ⟨0x10, 0, hello⟩
    let u : Transaction := ⟨0x10, 0xBEEF, hello⟩
    State.reset.Ready ∧ t.wf = true ∧ u.wf = true ∧ decode t = .ok (.crcCompute hello) ∧ u.cmd = t.cmd ∧
      usesArg (.crcCompute hello) = false ∧ u.din = t.din ∧ u ≠ t := by decide

theorem witness_IdleBlockHoldsItsState : State.reset.Ready ∧ State.reset.host = [] := by decide

/-- A running machine, the two bounds of the build, and a data operand of one byte too many. -/
theorem witness_StepRefusesWhatIsOutside :
    (State.reset.params.legal = true ∧ ¬ (State.reset.setRxs .rxFill).Idle) ∧
    (withBuild 0 .consumeTail).params.maxPayload = 0 ∧ 32764 < (withBuild 32765 .consumeTail).params.maxPayload ∧
    ((withBuild 32764 .consumeTail).params.legal = true ∧ (withBuild 1 .consumeTail).params.legal = true) := by decide

theorem witness_StepRefusesLongOperand :
    (presented [.command ⟨0x10, 0, List.replicate 65536 0⟩]).Ready ∧
      (presented [.command ⟨0x10, 0, List.replicate 65536 0⟩]).host =
        .command ⟨0x10, 0, List.replicate 65536 0⟩ :: [] ∧
      65535 < (Transaction.mk 0x10 0 (List.replicate 65536 0)).din.length := by
  refine ⟨⟨by decide, rfl, rfl⟩, rfl, ?_⟩
  simp only [List.length_replicate]
  omega

theorem witness_ResetEventResetsTheBlock :
    ({ withLine 0x07 hello with host := [.reset] }).Ready ∧ ({ withLine 0x07 hello with host := [.reset] }).host =
      .reset :: [] := by decide

/-! ### Witnesses: the CRC-16 codec, the stuffer, the framer -/

/-- Both sides of `MAX_OPERAND`, 518. -/
theorem witness_CrcComputeReturnsTheCrc :
    State.reset.params.maxOperand < (List.replicate 519 (0 : Byte)).length ∧
      (List.replicate 518 (0 : Byte)).length ≤ State.reset.params.maxOperand := by decide +kernel

/-- Both sides of `SCRATCH_CAP - 2`, 516. -/
theorem witness_CrcAppendAppendsHighByteFirst :
    State.reset.params.scratchCap < (List.replicate 517 (0 : Byte)).length + 2 ∧
      (List.replicate 516 (0 : Byte)).length + 2 ≤ State.reset.params.scratchCap := by decide +kernel

theorem witness_CrcVerifyReturnsTheVerdict :
    State.reset.params.maxOperand < (List.replicate 519 (0 : Byte)).length ∧
      (List.replicate 518 (0 : Byte)).length ≤ State.reset.params.maxOperand := by decide +kernel

theorem witness_ResidueLaws : ([] : List Byte).length < 2 ∧ ([0xFF] : List Byte).length < 2 := by decide

/-- The empty payload with its CRC, its first and its last bit. -/
theorem witness_CrcDetectsEverySingleBitError :
    (0 < 8 ∧ crc16 ([] ++ 0xFF :: [0xFF]) = 0) ∧ 7 < 8 ∧ crc16 ([0xFF] ++ 0xFF :: []) = 0 := by decide +kernel

theorem witness_WireSymbolsDecode :
    ((0x41 : Byte) ≠ 0x7E ∧ (0x41 : Byte) ≠ 0x7D) ∧ (0x7E : Byte) ≠ 0x5E ∧ (0x7E : Byte) ≠ 0x5D := by decide

theorem witness_StufferLaws :
    stuff [0x7E, 0x7D] = [] ++ 0x7D :: [0x5E, 0x7D, 0x5D] ∧
      unstuff [0x7D, 0x5E, 0x7D, 0x5D, 0x00] = some [0x7E, 0x7D, 0x00] := by decide +kernel

/-- An operand too long, a region one byte too long for the caller, and one that fits exactly (V-STF-2, V-STF-3). -/
theorem witness_StuffEncodeReturnsTheRegion :
    State.reset.params.maxOperand < (List.replicate 519 (0 : Byte)).length ∧
    min (4 : Half).toNat State.reset.params.scratchCap < (stuff [0x7E, 0x7D, 0x00]).length ∧
    ([0x7E, 0x7D, 0x00] : List Byte).length ≤ State.reset.params.maxOperand ∧
    (stuff [0x7E, 0x7D, 0x00]).length ≤ min (5 : Half).toNat State.reset.params.scratchCap := by decide +kernel

theorem witness_StuffDecodeReturnsTheRegion :
    State.reset.params.maxOperand < (List.replicate 519 (0 : Byte)).length ∧
    (([0x7D] : List Byte).length ≤ State.reset.params.maxOperand ∧ unstuff [0x7D] = none) ∧
    ([0x5E] : List Byte).length ≤ State.reset.params.maxOperand ∧ unstuff [0x5E] = some [0x5E] := by decide +kernel

/-- A payload of `MAX_PAYLOAD` bytes, each escaped, whose CRC is escaped too (V-FRM-11): its frame has the greatest
length. -/
theorem witness_FrameLength :
    let p : List Byte := [0x7D, 0x7D, 0x7D, 0x7E, 0x7E, 0x7D, 0x7E, 0x7E, 0x7E]
    p.length ≤ (withBuild 9 .consumeTail).params.maxPayload ∧ (frame p).length = 2 * p.length + 6 := by decide +kernel

/-- Both sides of `MAX_PAYLOAD`, 256. -/
theorem witness_FrameEncodeReturnsTheFrame :
    State.reset.params.maxPayload < (List.replicate 257 (0 : Byte)).length ∧
      (List.replicate 256 (0 : Byte)).length ≤ State.reset.params.maxPayload := by decide +kernel

/-- Each clause: no boundaries (V-FRM-17), a bad region (V-FRM-19), a residue (V-FRM-18), a payload one byte too long
(V-FRM-26) and one that fits exactly. -/
theorem witness_DeframerChecksInOrder :
    ([0x7E] : List Byte).length < 2 ∧
    unstuff [0x7E] = none ∧
    (unstuff [] = some [] ∧ crc16 [] ≠ 0) ∧
    (unstuff [0x41, 0x42, 0x43, 0x44, 0x45, 0xB4, 0x55] = some [0x41, 0x42, 0x43, 0x44, 0x45, 0xB4, 0x55] ∧
      crc16 [0x41, 0x42, 0x43, 0x44, 0x45, 0xB4, 0x55] = 0 ∧ 4 < 7 - 2 ∧ 7 - 2 ≤ 5) := by decide +kernel

theorem witness_FrameDecodeReturnsThePayload :
    State.reset.params.maxOperand < (List.replicate 519 (0 : Byte)).length ∧
    (([0x7E, 0x7E] : List Byte).length ≤ State.reset.params.maxOperand ∧
      deframe State.reset.params.maxPayload [0x7E, 0x7E] = .error .integrityError) ∧
    helloFrame.length ≤ State.reset.params.maxOperand ∧ deframe State.reset.params.maxPayload helloFrame = .ok hello := by
  decide +kernel

theorem witness_FrameRoundTrip : hello.length ≤ 7 := by decide

theorem witness_FrameShape : deframe 7 helloFrame = .ok hello := by decide +kernel

/-- The three cases: `6C` with bit 0 flipped, `5E` with bit 5 flipped (which gives `7E`), and an escaped byte. -/
theorem witness_SingleBitFlipVerdicts :
    (0 < 8 ∧ hello ++ be16 (crc16 hello) = [0x48, 0x65] ++ 0x6C :: [0x6C, 0x6F, 0x20, 0x00, 0x96, 0x3D] ∧
      (0x6C : Byte) ≠ 0x7E ∧ (0x6C : Byte) ≠ 0x7D ∧ flipBit 0x6C 0 ≠ 0x7E ∧ flipBit 0x6C 0 ≠ 0x7D) ∧
    (5 < 8 ∧ ([0x5E] : List Byte) ++ be16 (crc16 [0x5E]) = [] ++ 0x5E :: be16 (crc16 [0x5E]) ∧
      flipBit 0x5E 5 = 0x7E) ∧
    (7 < 8 ∧ ([0x7E] : List Byte) ++ be16 (crc16 [0x7E]) = [] ++ 0x7E :: be16 (crc16 [0x7E])) := by decide +kernel

/-! ### Witnesses: the line session -/

theorem witness_LineSendChecksFirst :
    (State.reset.Idle ∧ State.reset.inited = false) ∧ (withLine 0x06 []).txEn = false ∧
    ((withLine 0x07 []).Idle ∧ (withLine 0x07 []).inited = true ∧ (withLine 0x07 []).txEn = true ∧
      (withLine 0x07 []).params.maxPayload < (List.replicate 257 (0 : Byte)).length) := by decide +kernel

theorem witness_LineSendRunsItsLoop :
    (withLine 0x05 []).inited = true ∧ (withLine 0x05 []).txEn = true ∧
      (List.replicate 256 (0 : Byte)).length ≤ (withLine 0x05 []).params.maxPayload := by decide +kernel

theorem witness_LineSendTransmitsTheFrame :
    let s := State.withSink (withLine 0x05 []) (List.replicate 11 true ++ [false])
    s.inited = true ∧ s.txEn = true ∧ hello.length ≤ s.params.maxPayload ∧
      s.ports.sinkAnswers = List.replicate (frame hello).length true ++ [false] := by decide +kernel

/-- The first offer and the last one refused (V-TX-4, V-TX-6). -/
theorem witness_LineSendStopsAtTheFirstRefusal :
    let s := State.withSink (withLine 0x05 []) [false]
    let u := State.withSink (withLine 0x05 []) (List.replicate 10 true ++ [false])
    (s.inited = true ∧ s.txEn = true ∧ hello.length ≤ s.params.maxPayload ∧ (frame hello)[0]? = some 0x7E ∧
      s.ports.sinkAnswers = List.replicate 0 true ++ false :: []) ∧
    (frame hello)[10]? = some 0x7E ∧ u.ports.sinkAnswers = List.replicate 10 true ++ false :: [] := by decide +kernel

theorem witness_LineReceiveChecksFirst :
    (State.reset.Idle ∧ State.reset.inited = false) ∧ (withLine 0x05 []).Idle ∧ (withLine 0x05 []).rxEn = false := by
  decide

theorem witness_LineReceiveRunsItsLoops : (withLine 0x06 []).inited = true ∧ (withLine 0x06 []).rxEn = true := by decide

/-- A FIFO that is full, and one with room. -/
theorem witness_FillTakesBytesInOrder :
    let s := withLine 0x06 (List.replicate 518 0x11)
    (s.inited = true ∧ s.rxEn = true ∧ s.acc.length ≤ s.params.accCap) ∧
      (withLine 0x06 []).acc.length ≤ (withLine 0x06 []).params.accCap := by decide +kernel

/-- A tail behind garbage; none, of bytes without a FLAG, of a FLAG with `CAND_MAX` bytes after it (here behind
garbage), and of one with one byte more (V-RX-10), which fills the FIFO. -/
theorem witness_DetectorFindsTheNextCandidate :
    let p := (withBuild 4 .consumeTail).params
    (([0x01, 0x7E, 0x7E] : List Byte).length ≤ p.accCap ∧ (locate p.candMax [0x01, 0x7E, 0x7E]).2 = some 1) ∧
    (locate p.candMax (0x7E :: List.replicate 12 0x11)).2 = none ∧
    flagByte ∉ List.replicate 14 (0x11 : Byte) ∧
    (0x11 :: 0x7E :: List.replicate 12 0x11 = [0x11] ++ flagByte :: List.replicate 12 (0x11 : Byte) ∧
      (0x11 :: 0x7E :: List.replicate 12 0x11 : List Byte).length ≤ p.accCap ∧
      flagByte ∉ ([0x11] : List Byte) ∧ flagByte ∉ List.replicate 12 (0x11 : Byte) ∧
      (List.replicate 12 (0x11 : Byte)).length = p.candMax) ∧
    0x7E :: List.replicate 13 0x11 = [] ++ flagByte :: List.replicate 13 (0x11 : Byte) ∧
    (0x7E :: List.replicate 13 0x11 : List Byte).length ≤ p.accCap ∧
    flagByte ∉ List.replicate 13 (0x11 : Byte) := by decide +kernel

/-- The interior of the frame of "Hello \0" (V-SRC-1). -/
def helloInterior : List Byte := [0x48, 0x65, 0x6C, 0x6C, 0x6F, 0x20, 0x00, 0x96, 0x3D]

/-- The same with byte 3 of the frame corrupted (V-SRC-5). -/
def corrupted : List Byte := [0x48, 0x65, 0x6D, 0x6C, 0x6F, 0x20, 0x00, 0x96, 0x3D]

/-- A state with the given FIFO and policy, whose source has nothing. -/
def receiving (policy : ResyncPolicy) (acc : List Byte) : State :=
  State.withSource { withLine 0x06 acc with params := ⟨256, policy⟩ } []

/-- A caller with room for exactly the payload. -/
theorem witness_AcceptedCandidateIsDelivered :
    let s := receiving .consumeTail (flagByte :: helloInterior ++ flagByte :: worldFrame)
    s.Idle ∧ s.inited = true ∧ s.rxEn = true ∧ s.ports.sourceAnswers = none :: [] ∧
      s.acc = flagByte :: helloInterior ++ flagByte :: worldFrame ∧ flagByte ∉ helloInterior ∧
      deframe s.params.maxPayload (flagByte :: helloInterior ++ [flagByte]) = .ok hello ∧
      hello.length ≤ (7 : Half).toNat := by decide +kernel

/-- A candidate the deframer rejects is rejected for every capacity. -/
theorem rejected {n k : Nat} {c : List Byte} {e : Status} (h : deframe n c = .error e) :
    ∀ p, deframe n c = .ok p → k < p.length := fun p hp => by rw [h] at hp; cases hp

/-- A candidate whose payload has one byte more than the caller has room for is rejected. -/
theorem too_long {n k : Nat} {c q : List Byte} (h : deframe n c = .ok q) (hq : k < q.length) :
    ∀ p, deframe n c = .ok p → k < p.length := fun p hp => by rw [h] at hp; cases hp; exact hq

/-- Both policies; a candidate with a residue, and one whose payload is one byte too long for the caller (V-RX-4). -/
theorem witness_RejectedCandidateIsSkipped (policy : ResyncPolicy) :
    let s := receiving policy (flagByte :: corrupted ++ flagByte :: worldFrame)
    s.Idle ∧ s.inited = true ∧ s.rxEn = true ∧ s.ports.sourceAnswers = none :: [] ∧
      s.acc = flagByte :: corrupted ++ flagByte :: worldFrame ∧ flagByte ∉ corrupted ∧
      (∀ p, deframe s.params.maxPayload (flagByte :: corrupted ++ [flagByte]) = .ok p → (256 : Half).toNat < p.length) ∧
      (∀ p, deframe s.params.maxPayload (flagByte :: helloInterior ++ [flagByte]) = .ok p →
        (6 : Half).toNat < p.length) := by
  refine ⟨?_, ?_, ?_, ?_, ?_, ?_, rejected (e := .integrityError) ?_, too_long (q := hello) ?_ ?_⟩ <;>
    cases policy <;> decide +kernel

/-- A partial frame behind garbage, nothing at all, and a head with one byte too many after it. -/
theorem witness_NothingDeliveredLeavesAPartialCandidate :
    let s := receiving .consumeTail ([0x01, 0x02] ++ flagByte :: helloInterior)
    let u := receiving .consumeTail []
    let v := receiving .consumeTail ([] ++ flagByte :: List.replicate 517 0x11)
    (s.inited = true ∧ s.rxEn = true ∧ s.acc.length ≤ s.params.accCap ∧ (s.scanned 256 s.filled.1).2 = none ∧
      s.filled.1 = [0x01, 0x02] ++ flagByte :: helloInterior ∧ flagByte ∉ ([0x01, 0x02] : List Byte) ∧
      flagByte ∉ helloInterior) ∧
    (u.scanned 256 u.filled.1).2 = none ∧
    (v.acc.length = v.params.accCap ∧ (v.scanned 256 v.filled.1).2 = none ∧
      v.filled.1 = [] ++ flagByte :: List.replicate 517 0x11 ∧ flagByte ∉ List.replicate 517 (0x11 : Byte)) := by
  decide +kernel

/-- The last but one byte and the last byte of a frame. -/
theorem witness_PartialArrival :
    let s : State := State.withSource (withLine 0x06 (helloFrame.take 9)) [0x3D]
    let u : State := State.withSource (withLine 0x06 (helloFrame.take 10)) [0x7E]
    (s.inited = true ∧ s.rxEn = true ∧ hello.length ≤ s.params.maxPayload ∧ hello.length ≤ (7 : Half).toNat ∧
      s.acc = (frame hello).take 9 ∧ (frame hello)[9]? = some 0x3D ∧
      s.ports.sourceAnswers = some 0x3D :: none :: [] ∧ 9 + 1 < (frame hello).length) ∧
    u.acc = (frame hello).take 10 ∧ (frame hello)[10]? = some 0x7E ∧
      u.ports.sourceAnswers = some 0x7E :: none :: [] ∧ ¬ 10 + 1 < (frame hello).length := by decide +kernel

theorem witness_WholeFrameIsReceived :
    let s : State := State.withSource (withLine 0x06 []) helloFrame
    s.inited = true ∧ s.rxEn = true ∧ s.acc = [] ∧ hello.length ≤ s.params.maxPayload ∧
      hello.length ≤ (7 : Half).toNat ∧ s.ports.sourceAnswers = (frame hello).map some ++ none :: [] := by
  decide +kernel

theorem witness_ResynchronizesPastACorruptedFrame (policy : ResyncPolicy) :
    let s := receiving policy (flagByte :: corrupted ++ flagByte :: (worldFrame ++ [0x7E]))
    s.inited = true ∧ s.rxEn = true ∧ s.ports.sourceAnswers = none :: [] ∧
      s.acc = flagByte :: corrupted ++ flagByte :: (frame world ++ [0x7E]) ∧ flagByte ∉ corrupted ∧
      (∀ q, deframe s.params.maxPayload (flagByte :: corrupted ++ [flagByte]) = .ok q → (8 : Half).toNat < q.length) ∧
      world.length ≤ s.params.maxPayload ∧ world.length ≤ (8 : Half).toNat := by
  refine ⟨?_, ?_, ?_, ?_, ?_, rejected (e := .integrityError) ?_, ?_, ?_⟩ <;> cases policy <;> decide +kernel

/-- The stream of V-RX-6. -/
theorem witness_MisphaseUnderConsumeTail :
    let s := receiving .consumeTail misphased
    s.inited = true ∧ s.rxEn = true ∧ s.params.policy = .consumeTail ∧ s.ports.sourceAnswers = none :: [] ∧
      s.acc = flagByte :: [0x48, 0x65, 0x6C, 0x6C] ++ (world :: [hello, world]).flatMap frame ∧
      flagByte ∉ ([0x48, 0x65, 0x6C, 0x6C] : List Byte) ∧
      (∀ q, deframe s.params.maxPayload (flagByte :: [0x48, 0x65, 0x6C, 0x6C] ++ [flagByte]) = .ok q →
        (256 : Half).toNat < q.length) := by
  refine ⟨?_, ?_, ?_, ?_, ?_, ?_, rejected (e := .integrityError) ?_⟩ <;> decide +kernel

theorem witness_ReuseTailRecoversTheNextFrame :
    let s := receiving .reuseTail misphased
    s.inited = true ∧ s.rxEn = true ∧ s.params.policy = .reuseTail ∧ s.ports.sourceAnswers = none :: [] ∧
      s.acc = flagByte :: [0x48, 0x65, 0x6C, 0x6C] ++ (frame world ++ (helloFrame ++ worldFrame)) ∧
      flagByte ∉ ([0x48, 0x65, 0x6C, 0x6C] : List Byte) ∧
      (∀ q, deframe s.params.maxPayload (flagByte :: [0x48, 0x65, 0x6C, 0x6C] ++ [flagByte]) = .ok q →
        (8 : Half).toNat < q.length) ∧
      world.length ≤ s.params.maxPayload ∧ world.length ≤ (8 : Half).toNat := by
  refine ⟨?_, ?_, ?_, ?_, ?_, ?_, rejected (e := .integrityError) ?_, ?_, ?_⟩ <;> decide +kernel

theorem witness_EmptyPayloadLooksLikeNothing :
    let s := receiving .consumeTail ([0x7E, 0xFF, 0xFF, 0x7E] ++ helloFrame)
    s.inited = true ∧ s.rxEn = true ∧ s.ports.sourceAnswers = none :: [] ∧
      s.acc = [0x7E, 0xFF, 0xFF, 0x7E] ++ helloFrame := by decide

/-- A capacity one byte too small, and one of exactly `MAX_PAYLOAD`. -/
theorem witness_CapacityOfTheCaller :
    deframe 7 helloFrame = .ok hello ∧ (6 : Half).toNat < hello.length ∧ 7 ≤ (7 : Half).toNat := by decide +kernel

/-- A head that is a FLAG, no FLAG at all, and a FLAG that is the second or the last byte. -/
theorem witness_FullFifoWithoutATailIsDropped :
    let s := { withLine 0x06 (0x7E :: List.replicate 13 0x11) with params := ⟨4, .consumeTail⟩ }
    let u := { withLine 0x06 (0x11 :: List.replicate 13 0x11) with params := ⟨4, .consumeTail⟩ }
    let v := { withLine 0x06 (0x11 :: 0x7E :: List.replicate 12 0x11) with params := ⟨4, .consumeTail⟩ }
    let w := { withLine 0x06 (List.replicate 13 0x11 ++ [0x7E]) with params := ⟨4, .consumeTail⟩ }
    (s.inited = true ∧ s.rxEn = true ∧ s.acc = 0x7E :: List.replicate 13 0x11 ∧ s.acc.length = s.params.accCap ∧
      flagByte ∉ List.replicate 13 (0x11 : Byte)) ∧
    (u.acc = 0x11 :: List.replicate 13 0x11 ∧ u.acc.length = u.params.accCap) ∧
    (v.acc = [0x11] ++ flagByte :: List.replicate 12 0x11 ∧ v.acc.length = v.params.accCap ∧
      ([0x11] : List Byte) ≠ [] ∧ flagByte ∉ ([0x11] : List Byte) ∧ flagByte ∉ List.replicate 12 (0x11 : Byte)) ∧
    (w.acc = List.replicate 13 0x11 ++ flagByte :: [] ∧ w.acc.length = w.params.accCap) := by decide +kernel

/-! ### Witnesses: the whole-machine rules -/

/-- The state a command leads to. -/
def next (i : Instr) (s : State) : State :=
  match exec i s with
  | .next t => t
  | .fault _ => s
  | .refused _ => s

/-- The command does lead there. -/
def runs (i : Instr) (s : State) : Bool :=
  match exec i s with
  | .next _ => true
  | .fault _ => false
  | .refused _ => false

theorem exec_next {i : Instr} {s : State} (h : runs i s = true) : exec i s = .next (next i s) := by
  unfold runs at h
  unfold next
  split at h <;> simp_all

/-- One pure command, and the two commands that call a port. -/
theorem witness_CommandsDoNotInterfere :
    (exec (.crcCompute hello) State.reset = .next (next (.crcCompute hello) State.reset) ∧
      isPure (.crcCompute hello) = true) ∧
    (exec (.lineSend hello) (State.withSink (withLine 0x05 []) [false]) =
      .next (next (.lineSend hello) (State.withSink (withLine 0x05 []) [false]))) ∧
    exec (.lineReceive 256) (receiving .consumeTail helloFrame) =
      .next (next (.lineReceive 256) (receiving .consumeTail helloFrame)) := by
  refine ⟨⟨exec_next ?_, ?_⟩, exec_next ?_, exec_next ?_⟩ <;> decide +kernel

theorem witness_StatusesAreThoseOfTheTable :
    exec (.lineReceive 256) State.reset = .next (next (.lineReceive 256) State.reset) :=
  exec_next (by decide +kernel)

/-- A failure without a result, and `TransportError`. -/
theorem witness_FailingCommandChangesOnlyResults :
    (exec (.stuffDecode [0x7D]) State.reset = .next (next (.stuffDecode [0x7D]) State.reset) ∧
      (next (.stuffDecode [0x7D]) State.reset).status ≠ Status.ok.code ∧
      (next (.stuffDecode [0x7D]) State.reset).status ≠ Status.transportError.code) ∧
    (exec (.lineSend hello) (State.withSink (withLine 0x05 []) [false]) =
      .next (next (.lineSend hello) (State.withSink (withLine 0x05 []) [false])) ∧
      (next (.lineSend hello) (State.withSink (withLine 0x05 []) [false])).status = Status.transportError.code) := by
  refine ⟨⟨exec_next ?_, ?_, ?_⟩, exec_next ?_, ?_⟩ <;> decide +kernel

/-- A call on each port. -/
theorem witness_PortsAreCalledOnlyWhenEnabled :
    let s := State.withSink (withLine 0x05 []) [false]
    let u := receiving .consumeTail helloFrame
    (exec (.lineSend hello) s = .next (next (.lineSend hello) s) ∧
      (next (.lineSend hello) s).ports.events = s.ports.events ++ [.offer 0x7E false]) ∧
    exec (.lineReceive 256) u = .next (next (.lineReceive 256) u) ∧
      (next (.lineReceive 256) u).ports.events = u.ports.events ++ [.poll none] := by
  refine ⟨⟨exec_next ?_, ?_⟩, exec_next ?_, ?_⟩ <;> decide +kernel

/-- The greatest number of polls: the FIFO takes all but one byte and the last poll is answered with none. -/
theorem witness_PortCallsAreBounded :
    let s := { State.withSource (withLine 0x06 []) (List.replicate 13 0x11) with params := ⟨4, .consumeTail⟩ }
    exec (.lineReceive 256) s = .next (next (.lineReceive 256) s) ∧
      (next (.lineReceive 256) s).ports.events.length = s.ports.events.length + s.params.accCap ∧
      isPure (.crcCompute []) = true := by
  refine ⟨exec_next ?_, ?_, ?_⟩ <;> decide +kernel

/-- The longest length of the largest build. -/
theorem witness_LengthsFitTheResult :
    (withBuild 32764 .consumeTail).params.legal = true ∧ 65534 ≤ (withBuild 32764 .consumeTail).params.scratchCap := by
  decide

/-- A step from the reset state, which meets the invariant, with a command presented. -/
theorem witness_StepKeepsTheInvariant :
    let t : Transaction := ⟨0x83, 0, []⟩
    (State.reset.present t).Inv ∧ (after State.reset t).isSome = true := by decide +kernel

/-- Two instances, and the first of them steps. -/
theorem witness_InstancesAreIsolated :
    let sys := [State.reset.present ⟨0x83, 0, []⟩, State.reset]
    sys[0]? = some (State.reset.present ⟨0x83, 0, []⟩) ∧
      (match stepInstance 0 sys with
       | .next sys' => sys'.map (·.lcfg)
       | .fault _ => []
       | .refused _ => []) = [0x07, 0x00] := by decide +kernel

end Sys2Proof.Tests
end

section
/-! How a block that exists and is between commands takes a command transaction (00_scope.md R9, 20_memory.md R65), and
the lengths a legal build can write into `RESULT` (R10, R14). -/

namespace Sys2Proof.Machine

/-! ### One command transaction -/

/-- A transaction the interface can carry, and that decodes, runs its command. -/
theorem runTransaction_of_decode_ok {t : Transaction} {i : Instr} (hwf : t.wf = true) (hdec : decode t = .ok i)
    (s : State) : runTransaction t s = exec i s := by
  simp [runTransaction, hwf, hdec]

/-- A ready block takes the presented command from the host's queue and runs its transaction: neither refusal of
`step` applies. -/
theorem step_of_command {s : State} {t : Transaction} {rest : List HostEvent} (hready : s.Ready)
    (hhost : s.host = .command t :: rest) : step s = runTransaction t { s with host := rest } := by
  obtain ⟨hlegal, hidle⟩ := hready
  have hrunning : s.running = false := s.running_eq_false.mpr hidle
  simp [step, hlegal, hrunning, s.takeEvent_cons _ rest hhost]

/-- Settles O1: a ready block steps to the presented transaction, which runs the command it decodes to. -/
theorem stepRunsTheDecodedCommand : Obligations.StepRunsTheDecodedCommand := by
  intro s t rest i hready hhost hwf hdec
  calc step s = runTransaction t { s with host := rest } := step_of_command hready hhost
    _ = exec i { s with host := rest } := runTransaction_of_decode_ok hwf hdec _

/-! ### Lengths in `RESULT` -/

/-- `RESULT` holds every count below 2^16 (R14). -/
theorem countResult_toNat {n : Nat} (h : n < 2 ^ 16) : (countResult n).toNat = n :=
  (BitVec.toNat_ofNat n 16).trans (Nat.mod_eq_of_lt h)

/-- The working buffer of a build that exists has at most 65534 bytes (R10, R11). -/
theorem scratchCap_le_of_legal {p : Params} (h : p.legal = true) : p.scratchCap ≤ 65534 := by
  obtain ⟨-, hmax⟩ : 1 ≤ p.maxPayload ∧ p.maxPayload ≤ 32764 := by simpa [Params.legal] using h
  simp only [Params.scratchCap]
  omega

/-- Settles O57: `SCRATCH_CAP` of a legal build lies below 2^16, so no length is cut. -/
theorem lengthsFitTheResult : Obligations.LengthsFitTheResult := by
  intro p n hlegal hn
  have hcap : p.scratchCap ≤ 65534 := scratchCap_le_of_legal hlegal
  exact countResult_toNat (by omega)

end Sys2Proof.Machine
end

section
/-! The ROM of the CRC codec against its construction (10_state.md R30, R31): one bit step is linear over XOR, so eight
of them are, and so is the table. -/

namespace Sys2Proof.Machine

/-! ### The shift register -/

/-- What is XORed into both of two words is not in their XOR. -/
theorem xor_xor_cancel (x y p : Half) : (x ^^^ p) ^^^ (y ^^^ p) = x ^^^ y :=
  calc (x ^^^ p) ^^^ (y ^^^ p) = (x ^^^ y) ^^^ (p ^^^ p) := by ac_rfl
    _ = x ^^^ y := by rw [BitVec.xor_self, BitVec.xor_zero]

/-- One bit step is linear: it XORs in the polynomial for each operand whose top bit is shifted out (R30). -/
theorem crcBit_xor (a b : Half) : crcBit (a ^^^ b) = crcBit a ^^^ crcBit b := by
  unfold crcBit
  rw [BitVec.getLsbD_xor, BitVec.shiftLeft_xor_distrib]
  cases a.getLsbD 15 <;> cases b.getLsbD 15
  · rfl
  · exact BitVec.xor_assoc _ _ _
  · simp only [Bool.xor_false, if_true, Bool.false_eq_true, if_false]
    ac_rfl
  · exact (xor_xor_cancel _ _ _).symm

theorem crcBits8_xor (a b : Half) : crcBits8 (a ^^^ b) = crcBits8 a ^^^ crcBits8 b := by
  simp only [crcBits8, crcBit_xor]

/-! ### The table -/

theorem crcTab_length : crcTab.length = 256 := by
  simp only [crcTab, List.length_append]
  rfl

/-- Each of the 256 entries is the register after eight bit steps from its index in the high byte (R30). -/
theorem crcTabAt_eq_crcBits8 : ∀ i : Byte, crcTabAt i = crcBits8 ((i.setWidth 16 : Half) <<< 8) := by
  decide +kernel

/-- The table inherits linearity from the shift register it tabulates (R31). -/
theorem crcTabAt_xor (a b : Byte) : crcTabAt (a ^^^ b) = crcTabAt a ^^^ crcTabAt b := by
  simp only [crcTabAt_eq_crcBits8, BitVec.setWidth_xor, BitVec.shiftLeft_xor_distrib, crcBits8_xor]

/-- Half of the high bytes occur in the table (R31). -/
theorem crcTab_highBytes_dedup_length : (crcTab.map (fun v => v.extractLsb' 8 8)).dedup.length = 128 := by
  decide +kernel

/-- No byte of a one-byte sequence clears the register it starts from (R31, R114). -/
theorem crcTabAt_ne_FF00 : ∀ i : Byte, crcTabAt i ≠ 0xFF00 := by decide +kernel

/-- Settles O11, by running the construction for each of the 256 indices. -/
theorem crcTableIsItsConstruction : Obligations.CrcTableIsItsConstruction :=
  ⟨crcTab_length, crcTabAt_eq_crcBits8⟩

/-- Settles O12: the named entries are read off; linearity is that of the shift register. -/
theorem crcTableProperties : Obligations.CrcTableProperties :=
  ⟨rfl, rfl, rfl, crcTabAt_xor, rfl, rfl, rfl, crcTab_highBytes_dedup_length, crcTabAt_ne_FF00⟩

end Sys2Proof.Machine
end

section
/-! The invariant: it holds after reset (10_state.md R34), and every step keeps it. What a command must show is its
result, a FIFO within its capacity, and that both machines are back at `IDLE`; the rest is its frame. -/

namespace Sys2Proof.Machine

/-! ### No payload exceeds its buffer -/

/-- The decoder gives at most one byte for each it reads (41_stuffer.md R133). -/
theorem unstuff_length_le {e u : List Byte} (h : unstuff e = some u) : u.length ≤ e.length := by
  induction e using unstuff.induct generalizing u with
  | case1 => cases h; exact le_rfl
  | case2 => simp [unstuff_cons] at h
  | case3 hne => simp [unstuff_cons, hne] at h
  | case4 c rest hesc hne ih =>
    obtain ⟨v, hv, rfl⟩ : ∃ v, unstuff rest = some v ∧ (c ^^^ escXor) :: v = u := by
      simpa [unstuff_cons, hne, hesc] using h
    have := ih hv
    simp only [List.length_cons]
    omega
  | case5 c rest hesc hne => simp [unstuff_cons, hne, hesc] at h
  | case6 b rest hflag hescape ih =>
    obtain ⟨v, hv, rfl⟩ : ∃ v, unstuff rest = some v ∧ b :: v = u := by
      simpa [unstuff_cons, hflag, hescape] using h
    exact Nat.succ_le_succ (ih hv)

/-- A payload the deframer gives fits the build (42_framer.md R152, the last check). -/
theorem deframe_length_le {n : Nat} {f p : List Byte} (h : deframe n f = .ok p) : p.length ≤ n := by
  simp only [deframe] at h
  split at h
  case isFalse => cases h
  split at h
  case h_1 => cases h
  split at h
  case isFalse => cases h
  split at h
  case isTrue => cases h
  case isFalse u _ _ hfits =>
    cases h
    rw [List.length_take]
    omega

theorem judge_length_le {n : Nat} {arg : Half} {c p : List Byte} (h : judge n arg c = some p) : p.length ≤ n := by
  unfold judge at h
  split at h
  · next q hq =>
    split at h
    · cases h; exact deframe_length_le hq
    · cases h
  · cases h

theorem le_scratchCap_of_le_maxPayload {P : Params} {n : Nat} (h : n ≤ P.maxPayload) : n ≤ P.scratchCap := by
  simp only [Params.scratchCap]
  omega

/-- The frame of a payload that fits the build fits the working buffer (00_scope.md R11). -/
theorem frame_length_le_scratchCap {P : Params} {p : List Byte} (h : p.length ≤ P.maxPayload) :
    (frame p).length ≤ P.scratchCap := by
  have := frame_length_le p
  simp only [Params.scratchCap]
  omega

/-- The scan delivers only payloads that fit the build (43_line_session.md R197). -/
theorem scanLoop_payload_length_le {P : Params} {arg : Half} {n : Nat} {a p : List Byte}
    (h : (scanLoop P arg n a).2 = some p) : p.length ≤ P.maxPayload := by
  induction n generalizing a with
  | zero => cases h
  | succ n ih =>
    simp only [scanLoop] at h
    split at h
    · cases h
    · split at h
      · next q hq => cases h; exact judge_length_le hq
      · exact ih h

/-- The fill stops at the capacity of the FIFO (43_line_session.md R192). -/
theorem State.filled_length_le {s : State} (h : s.acc.length ≤ s.params.accCap) :
    s.filled.1.length ≤ s.params.accCap := by
  have := (fillLoop_length (s.params.accCap - s.acc.length) s.acc s.ports).2
  unfold State.filled
  omega

/-! ### How the invariant is kept -/

/-- The value `LINE_INIT` writes is a legal `LCFG` (10_state.md R22, R23). -/
theorem lcfgLegal_of_lcfgValue {s : State} {rx tx : Bool} (h : s.lcfg = lcfgValue rx tx) : s.LcfgLegal := by
  have hbits : ∀ rx tx, (lcfgValue rx tx).extractLsb' 3 5 = 0 ∧ (lcfgValue rx tx).getLsbD 2 = true := by decide
  obtain ⟨hzero, hinit⟩ := hbits rx tx
  refine ⟨h ▸ hzero, fun hn => ?_⟩
  rw [State.inited, h, hinit] at hn
  cases hn

theorem State.fail_resultsLegal (s : State) (e : Status) : (s.fail e).ResultsLegal :=
  s.finish_resultsLegal e 0 none (fun _ => rfl) (fun _ _ => rfl) nofun

theorem State.finish_ok_resultsLegal (s : State) (r : Half) {d : Option (List Byte)}
    (hd : ∀ x ∈ d, x.length ≤ s.params.scratchCap) : (s.finish .ok r d).ResultsLegal :=
  s.finish_resultsLegal .ok r d (absurd rfl) (absurd rfl) hd

/-- A state with the same build and line keeps the invariant where its machines, its FIFO and its results are legal. -/
theorem State.Inv.of_sameConfig {s t : State} (h : s.Inv) (hparams : t.params = s.params) (hlcfg : t.lcfg = s.lcfg)
    (hidle : t.Idle) (hacc : t.acc.length ≤ s.params.accCap) (hresults : t.ResultsLegal) : t.Inv := by
  obtain ⟨⟨hlegal, -⟩, hline, -, -⟩ := h
  refine ⟨⟨hparams ▸ hlegal, hidle⟩, ?_, hparams ▸ hacc, hresults⟩
  simpa only [State.LcfgLegal, State.inited, State.txEn, State.rxEn, hlcfg] using hline

theorem State.Inv.idle {s : State} (h : s.Inv) : s.Idle := h.1.2

theorem State.Inv.acc_length_le {s : State} (h : s.Inv) : s.acc.length ≤ s.params.accCap := h.2.2.1

theorem State.Inv.scrWrite {s : State} (h : s.Inv) (x : List Byte) : (s.scrWrite x).Inv := h

theorem State.Inv.scrHavoc {s : State} (h : s.Inv) : s.scrHavoc.Inv := h

theorem State.Inv.fail {s : State} (h : s.Inv) (e : Status) : (s.fail e).Inv :=
  h.of_sameConfig rfl rfl h.idle h.acc_length_le (s.fail_resultsLegal e)

theorem State.Inv.finish_ok {s : State} (h : s.Inv) (r : Half) {d : Option (List Byte)}
    (hd : ∀ x ∈ d, x.length ≤ s.params.scratchCap) : (s.finish .ok r d).Inv :=
  h.of_sameConfig rfl rfl h.idle h.acc_length_le (s.finish_ok_resultsLegal r hd)

/-- The operand check keeps the invariant where the work on a fitting operand does. -/
theorem State.Inv.withOperand {s work : State} {din : List Byte} (h : s.Inv)
    (hwork : din.length ≤ s.params.maxOperand → work.Inv) : (s.withOperand din work).Inv := by
  obtain ⟨-, he⟩ | ⟨hfits, he⟩ := s.withOperand_cases din work
  · rw [he]; exact h.fail .capacityError
  · rw [he]; exact hwork hfits

/-- The values R34 gives the registers are legal in every build that exists. -/
theorem inv_of_resetValues {s : State} (hlegal : s.params.legal = true) (hidle : s.Idle) (hlcfg : s.lcfg = 0)
    (hacc : s.acc = []) (hresult : s.Holds .ok 0 (some [])) : s.Inv := by
  obtain ⟨hstatus, -, hdout⟩ := hresult
  refine ⟨⟨hlegal, hidle⟩, ?_, by simp [hacc], ?_⟩
  · simp [State.LcfgLegal, State.txEn, State.rxEn, hlcfg]
  · simp [State.ResultsLegal, hstatus, hdout, Status.code]

/-! ### The ends of the line commands -/

/-- However a transmit ends, it leaves the build, the line and the receive machine alone and its own machine `IDLE`. -/
theorem txEnd_frame (s : State) (len i : Nat) (o : Bool × Nat × Ports) :
    (txEnd s len i o).params = s.params ∧ s.SameLine (txEnd s len i o) ∧ (txEnd s len i o).txs = .idle ∧
      (txEnd s len i o).rxs = s.rxs := by
  unfold txEnd
  split <;> exact ⟨rfl, ⟨rfl, rfl⟩, rfl, rfl⟩

/-- A transmit gives no data, and ends with `OK` or with `TransportError`, which may leave a count in `RESULT`. -/
theorem txEnd_resultsLegal (s : State) (len i : Nat) (o : Bool × Nat × Ports) : (txEnd s len i o).ResultsLegal := by
  unfold txEnd
  split
  · exact State.finish_ok_resultsLegal _ _ nofun
  · exact State.finish_resultsLegal _ .transportError _ none (fun _ => rfl) (fun _ => absurd rfl) nofun

/-- The results of a receive are legal where the payload it delivers, if any, fits the build. -/
theorem rxEnd_resultsLegal {s : State} {l : List Byte × Option (List Byte)} (ep : Nat)
    (hl : ∀ p, l.2 = some p → p.length ≤ s.params.maxPayload) : (rxEnd s l ep).ResultsLegal := by
  refine State.finish_ok_resultsLegal _ _ fun x hx => ?_
  cases hx
  cases hp : l.2 with
  | none => exact Nat.zero_le _
  | some p => exact le_scratchCap_of_le_maxPayload (hl p hp)

/-! ### Each command keeps the invariant -/

section
variable {s : State} (h : s.Inv)
include h

theorem execCrcCompute_inv (din : List Byte) : ∃ t, execCrcCompute din s = .next t ∧ t.Inv :=
  ⟨_, rfl, h.withOperand fun _ => h.finish_ok _ nofun⟩

theorem execCrcAppend_inv (arg : Half) (din : List Byte) : ∃ t, execCrcAppend arg din s = .next t ∧ t.Inv := by
  refine ⟨_, rfl, h.withOperand fun _ => ?_⟩
  split
  · exact h.fail _
  · next hfits =>
    refine (h.scrWrite _).finish_ok _ fun x hx => ?_
    cases hx
    simpa using hfits

theorem execCrcVerify_inv (din : List Byte) : ∃ t, execCrcVerify din s = .next t ∧ t.Inv :=
  ⟨_, rfl, h.withOperand fun _ => h.finish_ok _ nofun⟩

theorem execStuffEncode_inv (arg : Half) (din : List Byte) : ∃ t, execStuffEncode arg din s = .next t ∧ t.Inv := by
  refine ⟨_, rfl, h.withOperand fun _ => ?_⟩
  split
  · exact h.scrHavoc.fail _
  · next hfits =>
    refine (h.scrWrite _).finish_ok _ fun x hx => ?_
    cases hx
    exact (Nat.not_lt.mp hfits).trans (Nat.min_le_right _ _)

theorem execStuffDecode_inv (din : List Byte) : ∃ t, execStuffDecode din s = .next t ∧ t.Inv := by
  refine ⟨_, rfl, h.withOperand fun hfits => ?_⟩
  split
  · exact (h.scrWrite din).scrHavoc.fail _
  · next r hr =>
    refine (h.scrWrite _).finish_ok _ fun x hx => ?_
    cases hx
    exact (unstuff_length_le hr).trans hfits

theorem execFrameEncode_inv (din : List Byte) : ∃ t, execFrameEncode din s = .next t ∧ t.Inv := by
  refine ⟨_, rfl, h.withOperand fun _ => ?_⟩
  split
  · exact h.fail _
  · next hfits =>
    refine (h.scrWrite _).finish_ok _ fun x hx => ?_
    cases hx
    exact frame_length_le_scratchCap (Nat.not_lt.mp hfits)

theorem execFrameDecode_inv (din : List Byte) : ∃ t, execFrameDecode din s = .next t ∧ t.Inv := by
  refine ⟨_, rfl, h.withOperand fun _ => ?_⟩
  split
  · exact (h.scrWrite din).scrHavoc.fail _
  · next p hp =>
    refine (h.scrWrite _).finish_ok _ fun x hx => ?_
    cases hx
    exact le_scratchCap_of_le_maxPayload (deframe_length_le hp)

theorem execLineInit_inv (rx tx : Bool) : ∃ t, execLineInit rx tx s = .next t ∧ t.Inv := by
  obtain ⟨hready, -, -, -⟩ := h
  exact ⟨_, rfl, hready, lcfgLegal_of_lcfgValue rfl, Nat.zero_le _, State.finish_ok_resultsLegal _ _ nofun⟩

/-- A `LINE_SEND` that its checks refuse keeps the invariant. -/
theorem State.Inv.txRefused (e : Status) : (((s.setTxs .txCheck).fail e).setTxs .idle).Inv :=
  h.of_sameConfig rfl rfl ⟨rfl, h.idle.2⟩ h.acc_length_le (State.fail_resultsLegal _ e)

theorem exec_lineSend_inv (din : List Byte) : ∃ t, exec (.lineSend din) s = .next t ∧ t.Inv := by
  by_cases hcan : s.canSend = true
  · obtain ⟨hinit, hen⟩ := s.canSend_eq_true.mp hcan
    by_cases hfits : din.length ≤ s.params.maxPayload
    · obtain ⟨s1, he, hparams, hlcfg, hacc, -, -, hrxs⟩ := exec_lineSend_runs s din hinit hen hfits
      obtain ⟨hparams', ⟨hlcfg', hacc'⟩, htxs', hrxs'⟩ :=
        txEnd_frame s1 (frame din).length 0 (offerAll (frame din) s.ports)
      refine ⟨_, he, h.of_sameConfig (hparams'.trans hparams) (hlcfg'.trans hlcfg)
        ⟨htxs', (hrxs'.trans hrxs).trans h.idle.2⟩ ?_ (txEnd_resultsLegal _ _ _ _)⟩
      rw [hacc', hacc]
      exact h.acc_length_le
    · exact ⟨_, exec_lineSend_tooLong s din hinit hen (Nat.not_le.mp hfits), h.txRefused _⟩
  · have hcannot := s.canSend_eq_false.mp (Bool.eq_false_of_not_eq_true hcan)
    exact ⟨_, exec_lineSend_notConfigured s din hcannot, h.txRefused _⟩

/-- A `LINE_RECEIVE` that its check refuses keeps the invariant. -/
theorem State.Inv.rxRefused (e : Status) : (((s.setRxs .rxCheck).fail e).setRxs .idle).Inv :=
  h.of_sameConfig rfl rfl ⟨h.idle.1, rfl⟩ h.acc_length_le (State.fail_resultsLegal _ e)

theorem exec_lineReceive_inv (arg : Half) : ∃ t, exec (.lineReceive arg) s = .next t ∧ t.Inv := by
  by_cases hcan : s.canReceive = true
  · obtain ⟨hinit, hen⟩ := s.canReceive_eq_true.mp hcan
    obtain ⟨s1, ep, he, hparams, hlcfg, -, -, htxs⟩ := exec_lineReceive_runs s arg hinit hen
    have hscan : (s.scanned arg s.filled.1).1.length ≤ s.params.accCap :=
      (scanLoop_suffix _ _ _ _).length_le.trans (State.filled_length_le h.acc_length_le)
    have hresults : (rxEnd s1 (s.scanned arg s.filled.1) ep).ResultsLegal :=
      rxEnd_resultsLegal ep fun p hp => hparams ▸ scanLoop_payload_length_le hp
    exact ⟨_, he, h.of_sameConfig hparams hlcfg ⟨htxs.trans h.idle.1, rfl⟩ hscan hresults⟩
  · have hcannot := s.canReceive_eq_false.mp (Bool.eq_false_of_not_eq_true hcan)
    exact ⟨_, exec_lineReceive_notConfigured s arg hcannot, h.rxRefused _⟩

/-- Every command ends in a next state, and that state meets the invariant. -/
theorem exec_inv (i : Instr) : ∃ t, exec i s = .next t ∧ t.Inv := by
  cases i with
  | crcCompute din => exact execCrcCompute_inv h din
  | crcAppend arg din => exact execCrcAppend_inv h arg din
  | crcVerify din => exact execCrcVerify_inv h din
  | stuffEncode arg din => exact execStuffEncode_inv h arg din
  | stuffDecode din => exact execStuffDecode_inv h din
  | frameEncode din => exact execFrameEncode_inv h din
  | frameDecode din => exact execFrameDecode_inv h din
  | lineInit rx tx => exact execLineInit_inv h rx tx
  | lineSend din => exact exec_lineSend_inv h din
  | lineReceive arg => exact exec_lineReceive_inv h arg

end

/-! ### The step -/

/-- A transaction that leads to a next state ran its command, or failed as an illegal one. -/
theorem runTransaction_next_cases {tr : Transaction} {s t : State} (h : runTransaction tr s = .next t) :
    (∃ i, decode tr = .ok i ∧ exec i s = .next t) ∨ (∃ e, decode tr = .error e ∧ t = s.illegalCommand) := by
  unfold runTransaction at h
  split at h
  · split at h
    · next i hi => exact .inl ⟨i, hi, h⟩
    · next e he => cases h; exact .inr ⟨e, he, rfl⟩
  · cases h

/-- What a step that leads to a next state did with the host's queue (20_memory.md R65, 70_reset_and_hazards.md R250,
R251). -/
theorem step_next_cases {s t : State} (h : step s = .next t) :
    s.Ready ∧ (s.host = [] ∧ t = s ∨
      ∃ rest, (s.host = .reset :: rest ∧ t = { s with host := rest }.applyReset) ∨
        ∃ tr, s.host = .command tr :: rest ∧ runTransaction tr { s with host := rest } = .next t) := by
  unfold step at h
  split at h
  case isTrue => cases h
  next hlegal =>
  split at h
  case isTrue => cases h
  next hrunning =>
  refine ⟨⟨by simpa using hlegal, s.running_eq_false.mp (by simpa using hrunning)⟩, ?_⟩
  cases hhost : s.host with
  | nil =>
    rw [show s.takeEvent = none by simp [State.takeEvent, hhost]] at h
    cases h
    exact .inl ⟨rfl, rfl⟩
  | cons e rest =>
    rw [s.takeEvent_cons e rest hhost] at h
    cases e with
    | reset => cases h; exact .inr ⟨rest, .inl ⟨rfl, rfl⟩⟩
    | command tr => exact .inr ⟨rest, .inr ⟨tr, rfl, h⟩⟩

theorem runTransaction_inv {tr : Transaction} {s t : State} (h : s.Inv) (ht : runTransaction tr s = .next t) :
    t.Inv := by
  obtain ⟨i, -, he⟩ | ⟨-, -, rfl⟩ := runTransaction_next_cases ht
  · obtain ⟨t', he', hinv⟩ := exec_inv h i
    cases he.symm.trans he'
    exact hinv
  · exact h.fail .commandError

/-- Settles O9: R34 gives each register its reset value. -/
theorem resetStateIsAsSpecified : Obligations.ResetStateIsAsSpecified :=
  ⟨rfl, rfl, rfl, rfl, rfl, rfl, rfl, rfl, rfl, rfl, rfl, rfl, rfl⟩

/-- Settles O58: the default build exists, and the reset values are legal. -/
theorem resetStateMeetsTheInvariant : Obligations.ResetStateMeetsTheInvariant :=
  inv_of_resetValues (by decide) ⟨rfl, rfl⟩ rfl rfl ⟨rfl, rfl, rfl⟩

/-- Settles O59, by what the step takes from the host: nothing, a reset, or a transaction. -/
theorem stepKeepsTheInvariant : Obligations.StepKeepsTheInvariant := by
  intro s t hinv hstep
  obtain ⟨⟨hlegal, -⟩, ⟨-, rfl⟩ | ⟨rest, ⟨-, rfl⟩ | ⟨tr, -, htr⟩⟩⟩ := step_next_cases hstep
  · exact hinv
  · exact inv_of_resetValues hlegal ⟨rfl, rfl⟩ rfl rfl ⟨rfl, rfl, rfl⟩
  · have htaken : { s with host := rest }.Inv := hinv
    exact runTransaction_inv htaken htr

end Sys2Proof.Machine
end

section
/-! When a command calls a port (20_memory.md R60, R61): only `LINE_SEND` and `LINE_RECEIVE` do, past their
configuration checks, and then `LINE_SEND` only offers and `LINE_RECEIVE` only polls. And how a system of instances
steps (20_memory.md R69, 60_exceptions.md R233). -/

namespace Sys2Proof.Machine

/-! ### The calls of a loop -/

/-- From `p` to `q` at most `n` port calls were made, all of them offers (`isOffer` is `true`) or all of them polls
(`false`). -/
def Ports.Called (p q : Ports) (isOffer : Bool) (n : Nat) : Prop :=
  ∃ ev, q.events = p.events ++ ev ∧ ev.length ≤ n ∧ ∀ e ∈ ev, e.isOffer = isOffer

theorem Ports.Called.refl (p : Ports) (isOffer : Bool) (n : Nat) : p.Called p isOffer n :=
  ⟨[], (List.append_nil _).symm, Nat.zero_le n, nofun⟩

theorem Ports.Called.cons {p q r : Ports} {e : PortEvent} {n : Nat} (he : q.events = p.events ++ [e])
    (h : q.Called r e.isOffer n) : p.Called r e.isOffer (n + 1) := by
  obtain ⟨ev, hev, hlen, hall⟩ := h
  refine ⟨e :: ev, by simp [hev, he], Nat.succ_le_succ hlen, ?_⟩
  simpa using hall

/-- The loop of R180 makes one offer for each byte at most, and no poll. -/
theorem offerAll_called (f : List Byte) (p : Ports) : p.Called (offerAll f p).2.2 true f.length := by
  induction f generalizing p with
  | nil => exact .refl p true 0
  | cons b rest ih =>
    have hoffer := (p.offer_events b).1
    simp only [offerAll]
    split
    · exact .cons hoffer (ih _)
    · exact .cons hoffer (.refl _ _ _)

/-- The fill of R189 makes one poll for each free place at most, and no offer. -/
theorem fillLoop_called (n : Nat) (a : List Byte) (p : Ports) : p.Called (fillLoop n a p).2 false n := by
  induction n generalizing a p with
  | zero => exact .refl p false 0
  | succ n ih =>
    have hpoll := p.poll_events.1
    simp only [fillLoop]
    split
    · exact .cons hpoll (ih _ _)
    · exact .cons hpoll (.refl _ _ _)

theorem State.filled_called (s : State) :
    s.ports.Called s.filled.2 false (s.params.accCap - s.acc.length) :=
  fillLoop_called _ _ _

/-! ### The calls of a command -/

/-- The operand check calls no port. -/
theorem State.withOperand_samePorts {s work : State} (din : List Byte) (h : s.SamePorts work) :
    s.SamePorts (s.withOperand din work) := by
  obtain ⟨-, he⟩ | ⟨-, he⟩ := s.withOperand_cases din work
  · rw [he]; rfl
  · rw [he]; exact h

theorem txEnd_ports (s : State) (len i : Nat) (o : Bool × Nat × Ports) : (txEnd s len i o).ports = o.2.2 := by
  unfold txEnd
  split <;> rfl

/-- A pure command calls no port (43_line_session.md R211). -/
theorem exec_samePorts_of_isPure {i : Instr} {s t : State} (hpure : isPure i = true) (h : exec i s = .next t) :
    s.SamePorts t := by
  cases i with
  | crcCompute din => cases h; exact s.withOperand_samePorts din rfl
  | crcAppend arg din => cases h; exact s.withOperand_samePorts din (by split <;> rfl)
  | crcVerify din => cases h; exact s.withOperand_samePorts din rfl
  | stuffEncode arg din => cases h; exact s.withOperand_samePorts din (by split <;> rfl)
  | stuffDecode din => cases h; exact s.withOperand_samePorts din (by split <;> rfl)
  | frameEncode din => cases h; exact s.withOperand_samePorts din (by split <;> rfl)
  | frameDecode din => cases h; exact s.withOperand_samePorts din (by split <;> rfl)
  | lineInit rx tx => cases hpure
  | lineSend din => cases hpure
  | lineReceive arg => cases hpure

/-- `LINE_INIT` calls no port (43_line_session.md R171). -/
theorem exec_lineInit_samePorts {rx tx : Bool} {s t : State} (h : exec (.lineInit rx tx) s = .next t) :
    s.SamePorts t := by
  cases h; rfl

/-- What `LINE_SEND` does with the ports: nothing if a check refuses it, else the loop of R180. -/
theorem exec_lineSend_ports {din : List Byte} {s t : State} (h : exec (.lineSend din) s = .next t) :
    s.SamePorts t ∨
      s.canSend = true ∧ din.length ≤ s.params.maxPayload ∧ t.ports = (offerAll (frame din) s.ports).2.2 := by
  by_cases hcan : s.canSend = true
  · obtain ⟨hinit, hen⟩ := s.canSend_eq_true.mp hcan
    by_cases hfits : din.length ≤ s.params.maxPayload
    · obtain ⟨s1, he, -⟩ := exec_lineSend_runs s din hinit hen hfits
      cases h.symm.trans he
      exact .inr ⟨hcan, hfits, txEnd_ports _ _ _ _⟩
    · cases h.symm.trans (exec_lineSend_tooLong s din hinit hen (Nat.not_le.mp hfits))
      exact .inl rfl
  · have hcannot := s.canSend_eq_false.mp (Bool.eq_false_of_not_eq_true hcan)
    cases h.symm.trans (exec_lineSend_notConfigured s din hcannot)
    exact .inl rfl

/-- What `LINE_RECEIVE` does with the ports: nothing if its check refuses it, else the fill of R192. -/
theorem exec_lineReceive_ports {arg : Half} {s t : State} (h : exec (.lineReceive arg) s = .next t) :
    s.SamePorts t ∨ s.canReceive = true ∧ t.ports = s.filled.2 := by
  by_cases hcan : s.canReceive = true
  · obtain ⟨hinit, hen⟩ := s.canReceive_eq_true.mp hcan
    obtain ⟨s1, ep, he, -, -, hports, -, -⟩ := exec_lineReceive_runs s arg hinit hen
    cases h.symm.trans he
    exact .inr ⟨hcan, hports⟩
  · have hcannot := s.canReceive_eq_false.mp (Bool.eq_false_of_not_eq_true hcan)
    cases h.symm.trans (exec_lineReceive_notConfigured s arg hcannot)
    exact .inl rfl

/-- A command calls no port, or it offers a frame that fits the build on a line that may send, or it fills the FIFO on a
line that may receive. -/
theorem exec_ports_cases {i : Instr} {s t : State} (h : exec i s = .next t) :
    s.SamePorts t ∨
      (∃ din, i = .lineSend din ∧ s.canSend = true ∧ din.length ≤ s.params.maxPayload ∧
        s.ports.Called t.ports true (frame din).length) ∨
      ∃ arg, i = .lineReceive arg ∧ s.canReceive = true ∧
        s.ports.Called t.ports false (s.params.accCap - s.acc.length) := by
  by_cases hpure : isPure i = true
  · exact .inl (exec_samePorts_of_isPure hpure h)
  cases i with
  | lineInit rx tx => exact .inl (exec_lineInit_samePorts h)
  | lineSend din =>
    refine (exec_lineSend_ports h).imp_right fun ⟨hcan, hfits, hports⟩ => .inl ⟨din, rfl, hcan, hfits, ?_⟩
    rw [hports]
    exact offerAll_called _ _
  | lineReceive arg =>
    refine (exec_lineReceive_ports h).imp_right fun ⟨hcan, hports⟩ => .inr ⟨arg, rfl, hcan, ?_⟩
    rw [hports]
    exact s.filled_called
  | _ => exact absurd rfl hpure

/-- Settles O55: the offers come from a `LINE_SEND` past its check, the polls from a `LINE_RECEIVE` past its own. -/
theorem portsAreCalledOnlyWhenEnabled : Obligations.PortsAreCalledOnlyWhenEnabled := by
  intro i s t h
  obtain hsame | ⟨din, -, hcan, -, ev, hev, -, hoffers⟩ | ⟨arg, -, hcan, ev, hev, -, hpolls⟩ := exec_ports_cases h
  · exact ⟨[], by rw [hsame, List.append_nil], nofun⟩
  · obtain ⟨hinit, hen⟩ := s.canSend_eq_true.mp hcan
    exact ⟨ev, hev, fun e he => ⟨hinit, fun _ => hen, fun hpoll => by simp [hoffers e he] at hpoll⟩⟩
  · obtain ⟨hinit, hen⟩ := s.canReceive_eq_true.mp hcan
    exact ⟨ev, hev, fun e he => ⟨hinit, fun hoffer => by simp [hpolls e he] at hoffer, fun _ => hen⟩⟩

/-! ### A step of a system of instances -/

/-- A system that steps has no machine at place `k` and stands still, or it has one, which takes a step of its own and is
written back in its place. -/
theorem stepInstance_next_cases {k : Nat} {sys sys' : List State} (h : stepInstance k sys = .next sys') :
    (sys[k]? = none ∧ sys' = sys) ∨
      ∃ s s', sys[k]? = some s ∧ step s = .next s' ∧ sys' = sys.set k s' := by
  unfold stepInstance at h
  split at h
  case h_1 hk => cases h; exact .inl ⟨hk, rfl⟩
  case h_2 s hk =>
    split at h
    case h_1 s' hs => cases h; exact .inr ⟨s, s', hk, hs, rfl⟩
    case h_2 => cases h
    case h_3 => cases h

/-- Settles O60: the step writes place `k` of the list of instances and no other. -/
theorem instancesAreIsolated : Obligations.InstancesAreIsolated := by
  intro k sys sys' h
  obtain ⟨hk, rfl⟩ | ⟨s, s', hk, hs, rfl⟩ := stepInstance_next_cases h
  · exact ⟨rfl, fun _ _ => rfl, fun s hs => by rw [hk] at hs; cases hs⟩
  · refine ⟨List.length_set, fun j hj => List.getElem?_set_ne hj.symm, fun u hu => ?_⟩
    cases hk.symm.trans hu
    obtain ⟨hlt, -⟩ := List.getElem?_eq_some_iff.mp hk
    exact ⟨s', hs, List.getElem?_set_self hlt⟩

end Sys2Proof.Machine
end

section
/-! The opcode map read in both directions (30_encoding.md R80 to R82): a transaction decodes to a command exactly when
it carries that command's word and the operands the command uses. With it, which words are legal (R85), what an illegal
word does, and that the other operands have no effect (R87). -/

namespace Sys2Proof.Machine

/-! ### The fields of a command word -/

/-- `OP` and `SUB` are the whole command word (R81). -/
theorem cmd_eq_of_fields {c d : Byte} (hop : (cmdOp c).toNat = (cmdOp d).toNat) (hsub : cmdSub c = cmdSub d) :
    c = d := by
  have hfields (x : Byte) : cmdOp x ++ cmdSub x = x := BitVec.extractLsb'_append_extractLsb' (w := 4)
  rw [← hfields c, BitVec.eq_of_toNat_eq hop, hsub, hfields d]

@[simp] theorem decodePlain_zero (i : Instr) : decodePlain 0#4 i = .ok i := if_pos rfl

theorem decodePlain_eq_ok {sub : BitVec 4} {i j : Instr} (h : decodePlain sub j = .ok i) : sub = 0 ∧ j = i := by
  unfold decodePlain at h
  split at h
  · next hzero => cases h; exact ⟨hzero, rfl⟩
  · cases h

/-- Each of the four forms of `LINE_INIT` is read as it is written (R171). -/
@[simp] theorem decodeLineInit_lineInitCmd :
    ∀ rx tx, decodeLineInit (cmdSub (lineInitCmd rx tx)) = .ok (.lineInit rx tx) := by decide

@[simp] theorem cmdOp_lineInitCmd : ∀ rx tx, cmdOp (lineInitCmd rx tx) = 0x8 := by decide

/-- `LINE_INIT` takes no `SUB` but those of its four forms (R81, R171). -/
theorem decodeLineInit_eq_ok {sub : BitVec 4} {i : Instr} (h : decodeLineInit sub = .ok i) :
    ∃ rx tx, sub = cmdSub (lineInitCmd rx tx) ∧ .lineInit rx tx = i := by
  have hforms : ∀ sub : BitVec 4, sub.extractLsb' 2 2 = 0 →
      sub = cmdSub (lineInitCmd (sub.getLsbD 1) (sub.getLsbD 0)) := by decide
  unfold decodeLineInit at h
  split at h
  · next hzero => cases h; exact ⟨_, _, hforms sub hzero, rfl⟩
  · cases h

/-! ### Decoding and encoding -/

/-- The transaction carries the command: its word, and the operands it uses (R82). -/
def Carries (t : Transaction) (i : Instr) : Prop :=
  (encode i).cmd = t.cmd ∧ (usesArg i = true → (encode i).arg = t.arg) ∧ (usesDin i = true → (encode i).din = t.din)

theorem carries_encode (i : Instr) : Carries (encode i) i := ⟨rfl, fun _ => rfl, fun _ => rfl⟩

/-- Carrying a command is a matter of the word and the operands the command uses. -/
theorem Carries.of_sameUsed {t u : Transaction} {i : Instr} (h : Carries t i) (hcmd : u.cmd = t.cmd)
    (harg : usesArg i = true → u.arg = t.arg) (hdin : usesDin i = true → u.din = t.din) : Carries u i := by
  obtain ⟨hcmd', harg', hdin'⟩ := h
  exact ⟨hcmd'.trans hcmd.symm, fun ha => (harg' ha).trans (harg ha).symm, fun hd => (hdin' hd).trans (hdin hd).symm⟩

/-- The decoder takes from a transaction nothing but the word and the operands the command uses (R87). -/
theorem decode_of_carries {t : Transaction} {i : Instr} (h : Carries t i) : decode t = .ok i := by
  obtain ⟨cmd, arg, din⟩ := t
  obtain ⟨hcmd, harg, hdin⟩ := h
  subst hcmd
  cases i with
  | crcAppend a d | stuffEncode a d =>
    cases harg rfl
    cases hdin rfl
    simp [decode, encode, cmdSub]
  | lineReceive a =>
    cases harg rfl
    simp [decode, encode, cmdSub]
  | crcCompute d | crcVerify d | stuffDecode d | frameEncode d | frameDecode d | lineSend d =>
    cases hdin rfl
    simp [decode, encode, cmdSub]
  | lineInit rx tx => simp [decode, encode]

/-- A branch of the decoder that asks for `SUB = 0` reads the command back from the word `w` it is written as. -/
theorem carries_of_decodePlain {t : Transaction} {i j : Instr} (h : decodePlain (cmdSub t.cmd) j = .ok i) (w : Byte)
    (hw : (encode j).cmd = w) (hop : (cmdOp w).toNat = (cmdOp t.cmd).toNat) (hsub : cmdSub w = 0)
    (harg : usesArg j = true → (encode j).arg = t.arg) (hdin : usesDin j = true → (encode j).din = t.din) :
    Carries t i := by
  obtain ⟨hzero, rfl⟩ := decodePlain_eq_ok h
  exact ⟨hw.trans (cmd_eq_of_fields hop (hsub.trans hzero.symm)), harg, hdin⟩

/-- The branch of `LINE_INIT` reads one of its four forms. -/
theorem carries_of_decodeLineInit {t : Transaction} {i : Instr} (hop : (cmdOp t.cmd).toNat = 0x8)
    (h : decodeLineInit (cmdSub t.cmd) = .ok i) : Carries t i := by
  obtain ⟨rx, tx, hsub, rfl⟩ := decodeLineInit_eq_ok h
  exact ⟨cmd_eq_of_fields ((congrArg BitVec.toNat (cmdOp_lineInitCmd rx tx)).trans hop.symm) hsub.symm, nofun, nofun⟩

/-- What a transaction decodes to, it carries: one case for each branch of the decoder. -/
theorem carries_of_decode {t : Transaction} {i : Instr} (h : decode t = .ok i) : Carries t i := by
  simp only [decode] at h
  split at h
  case h_1 hop => exact carries_of_decodePlain h 0x10 rfl hop.symm rfl nofun (fun _ => rfl)
  case h_2 hop => exact carries_of_decodePlain h 0x20 rfl hop.symm rfl (fun _ => rfl) (fun _ => rfl)
  case h_3 hop => exact carries_of_decodePlain h 0x30 rfl hop.symm rfl nofun (fun _ => rfl)
  case h_4 hop => exact carries_of_decodePlain h 0x40 rfl hop.symm rfl (fun _ => rfl) (fun _ => rfl)
  case h_5 hop => exact carries_of_decodePlain h 0x50 rfl hop.symm rfl nofun (fun _ => rfl)
  case h_6 hop => exact carries_of_decodePlain h 0x60 rfl hop.symm rfl nofun (fun _ => rfl)
  case h_7 hop => exact carries_of_decodePlain h 0x70 rfl hop.symm rfl nofun (fun _ => rfl)
  case h_8 hop => exact carries_of_decodeLineInit hop h
  case h_9 hop => exact carries_of_decodePlain h 0x90 rfl hop.symm rfl nofun (fun _ => rfl)
  case h_10 hop => exact carries_of_decodePlain h 0xA0 rfl hop.symm rfl (fun _ => rfl) nofun
  case h_11 => cases h

@[simp] theorem decode_encode (i : Instr) : decode (encode i) = .ok i := decode_of_carries (carries_encode i)

/-- Settles O5: the transaction of a command carries it, and what a transaction decodes to, it carries. -/
theorem decodeAndEncodeAgree : Obligations.DecodeAndEncodeAgree :=
  ⟨decode_encode, fun _ _ => carries_of_decode⟩

/-- Settles O2: each row of the opcode map is one branch of the decoder, with its `SUB` allowed. -/
theorem opcodeMapDecodes : Obligations.OpcodeMapDecodes := by
  intro arg din
  simp [decode, cmdSub, decodeLineInit]

/-! ### Legal and illegal words -/

/-- The thirteen words R85 calls legal. -/
def legalWords : List Byte := [0x10, 0x20, 0x30, 0x40, 0x50, 0x60, 0x70, 0x80, 0x81, 0x82, 0x83, 0x90, 0xA0]

/-- Of the 256 words, the reasons of R85 leave out these thirteen and no other. -/
theorem illegalCmd_iff : ∀ c : Byte, IllegalCmd c ↔ c ∉ legalWords := by decide

theorem encode_cmd_mem_legalWords (i : Instr) : (encode i).cmd ∈ legalWords := by
  cases i with
  | lineInit rx tx => revert rx tx; decide
  | _ => simp [encode, legalWords]

/-- Each of the thirteen words has its row in the opcode map. -/
theorem decode_ok_of_mem_legalWords (arg : Half) (din : List Byte) :
    ∀ c ∈ legalWords, ∃ i, decode ⟨c, arg, din⟩ = .ok i := by
  obtain ⟨h10, h20, h30, h40, h50, h60, h70, h80, h81, h82, h83, h90, hA0⟩ := opcodeMapDecodes arg din
  simp only [legalWords, List.forall_mem_cons]
  exact ⟨⟨_, h10⟩, ⟨_, h20⟩, ⟨_, h30⟩, ⟨_, h40⟩, ⟨_, h50⟩, ⟨_, h60⟩, ⟨_, h70⟩, ⟨_, h80⟩, ⟨_, h81⟩, ⟨_, h82⟩, ⟨_, h83⟩,
    ⟨_, h90⟩, ⟨_, hA0⟩, nofun⟩

theorem exists_decode_ok_iff (t : Transaction) : (∃ i, decode t = .ok i) ↔ t.cmd ∈ legalWords := by
  refine ⟨fun ⟨i, hi⟩ => ?_, decode_ok_of_mem_legalWords t.arg t.din t.cmd⟩
  obtain ⟨hcmd, -, -⟩ := carries_of_decode hi
  exact hcmd ▸ encode_cmd_mem_legalWords i

/-- The decoder is total, so what it rejects is what it gives no command. -/
theorem exists_decode_error_iff (t : Transaction) : (∃ r, decode t = .error r) ↔ IllegalCmd t.cmd := by
  rw [illegalCmd_iff, ← exists_decode_ok_iff]
  cases decode t <;> simp

/-- Settles O3: the decoder accepts the words of the opcode map, and the other words are those with a reason of R85. -/
theorem thirteenWordsAreLegal : Obligations.ThirteenWordsAreLegal :=
  fun t => ⟨exists_decode_ok_iff t, exists_decode_error_iff t⟩

theorem runTransaction_of_illegalCmd {t : Transaction} (hwf : t.wf = true) (hcmd : IllegalCmd t.cmd) (s : State) :
    runTransaction t s = .next s.illegalCommand := by
  obtain ⟨r, hr⟩ := (exists_decode_error_iff t).mpr hcmd
  simp [runTransaction, hwf, hr]

/-- Settles O4: a ready block steps to the presented transaction, which fails as every error does. -/
theorem illegalCommandFails : Obligations.IllegalCommandFails := by
  intro s t rest hready hhost hwf hcmd
  rw [step_of_command hready hhost, runTransaction_of_illegalCmd hwf hcmd]
  exact returns_fail _ .commandError

/-! ### Operands a command does not use -/

/-- A block that exists and is presented a transaction runs the command it decodes to, from a state that does not depend
on the transaction. -/
theorem step_present {s : State} {t : Transaction} {i : Instr} (hready : s.Ready) (hwf : t.wf = true)
    (hdec : decode t = .ok i) : step (s.present t) = exec i ((s.setTxs .idle).setRxs .idle) := by
  obtain ⟨hlegal, -⟩ := hready
  exact stepRunsTheDecodedCommand (s.present t) t s.host i ⟨hlegal, rfl, rfl⟩ rfl hwf hdec

/-- Settles O6: both transactions decode to the same command, and the block runs it from the same state. -/
theorem unusedOperandsAreIgnored : Obligations.UnusedOperandsAreIgnored := by
  intro s t u i hready ht hu hdec hcmd harg hdin
  have hdec' : decode u = .ok i := decode_of_carries ((carries_of_decode hdec).of_sameUsed hcmd harg hdin)
  rw [step_present hready ht hdec, step_present hready hu hdec']

end Sys2Proof.Machine
end

section
/-! The length of a stuffed sequence (41_stuffer.md R130, R131) and of a frame (30_encoding.md R90). -/

namespace Sys2Proof.Machine

/-- Stuffing adds one byte for each that must be escaped (41_stuffer.md R130). -/
theorem stuff_length (x : List Byte) :
    (stuff x).length = x.length + (x.filter (fun b => decide (b = 0x7E ∨ b = 0x7D))).length := by
  simp only [← needsEscape_eq]
  induction x with
  | nil => rfl
  | cons b x ih =>
    rw [stuff_cons, List.length_append, ih, stuffByte]
    cases hb : needsEscape b <;> simp [hb] <;> omega

/-- A frame has four bytes more than its payload, and one for each escaped byte of the payload and its CRC (R88). -/
theorem frame_length_eq (p : List Byte) :
    (frame p).length = p.length + 4 + ((withCrc p).filter (fun b => decide (b = 0x7E ∨ b = 0x7D))).length := by
  rw [frame_length, stuff_length, withCrc_length]
  omega

/-- The longest frame of its payload is the one with every byte escaped (R90). -/
theorem frame_length_eq_max_iff (p : List Byte) :
    (frame p).length = 2 * p.length + 6 ↔ ∀ b ∈ withCrc p, b = 0x7E ∨ b = 0x7D := by
  have hall := List.length_filter_eq_length_iff (l := withCrc p) (p := fun b => decide (b = 0x7E ∨ b = 0x7D))
  simp only [decide_eq_true_iff, withCrc_length] at hall
  rw [frame_length_eq, ← hall]
  omega

/-- Settles O24: the bounds are those of the count of escaped bytes, and both buffers have the same capacity. -/
theorem frameLength : Obligations.FrameLength := by
  intro p
  have hlen := frame_length_eq p
  exact ⟨hlen, by omega, frame_length_le p, frame_length_eq_max_iff p,
    fun _ hfits => ⟨frame_length_le_scratchCap hfits, frame_length_le_scratchCap hfits⟩⟩

end Sys2Proof.Machine
end

section
/-! The CRC function on the two bytes of its register (40_crc.md R110): a byte equal to the high byte looks up entry 0,
so a CRC feeds itself out (R114), and eight bit steps of the register do what one table step does (R116). With it, the
three commands of the codec (R111 to R113). -/

namespace Sys2Proof.Machine

/-! ### The register as two bytes -/

theorem half_eq_xor_bytes (c : Half) :
    c = (c.extractLsb' 8 8).setWidth 16 <<< 8 ^^^ (c.extractLsb' 0 8).setWidth 16 := by
  ext i hi
  by_cases hlow : i < 8
  · simp [hlow, hi]
  · have hindex : 8 + (i - 8) = i := by omega
    have hhigh : i - 8 < 8 := by omega
    simp [hlow, hhigh, hindex, hi]

/-- The shift of R110 keeps the low byte alone. -/
theorem setWidth_lowByte_shiftLeft_8 (c : Half) : (c.extractLsb' 0 8).setWidth 16 <<< 8 = c <<< 8 := by
  ext i hi
  by_cases hlow : i < 8
  · simp [hlow]
  · have hhigh : i - 8 < 8 := by omega
    simp [hlow, hhigh, BitVec.getLsbD_eq_getElem (show i - 8 < 16 by omega)]

/-- What was the low byte is the high byte after the shift. -/
theorem highByte_shiftLeft_8 (c : Half) : (c <<< 8).extractLsb' 8 8 = c.extractLsb' 0 8 := by
  ext i hi
  have hinside : 8 + i < 16 := by omega
  simp [hinside, BitVec.getLsbD_eq_getElem (show i < 16 by omega)]

/-! ### One table step -/

theorem crcUpdate_eq (c : Half) (b : Byte) : crcUpdate c b = c <<< 8 ^^^ crcTabAt (c.extractLsb' 8 8 ^^^ b) := by
  rw [crcUpdate, BitVec.setWidth_ushiftRight_eq_extractLsb]

/-- Entry 0 of the table is 0, so the high byte of the register shifts itself out. -/
theorem crcUpdate_highByte (c : Half) : crcUpdate c (c.extractLsb' 8 8) = c <<< 8 := by
  have hzero : crcTabAt 0#8 = 0#16 := rfl
  rw [crcUpdate_eq, BitVec.xor_self, hzero, BitVec.xor_zero]

theorem crcFrom_append (c : Half) (x y : List Byte) : crcFrom c (x ++ y) = crcFrom (crcFrom c x) y :=
  List.foldl_append

/-- Whatever the register holds, its own two bytes clear it, high byte first (R114). -/
theorem crcFrom_be16_self (c : Half) : crcFrom c (be16 c) = 0 :=
  calc crcFrom c (be16 c) = crcUpdate (crcUpdate c (c.extractLsb' 8 8)) (c.extractLsb' 0 8) := rfl
    _ = (c <<< 8) <<< 8 := by rw [crcUpdate_highByte, ← highByte_shiftLeft_8, crcUpdate_highByte]
    _ = 0 := by rw [← BitVec.shiftLeft_add]; exact BitVec.shiftLeft_eq_zero le_rfl

/-- One byte meets the initial value 0xFFFF (R111, R114). -/
theorem crc16_singleton (b : Byte) : crc16 [b] = 0xFF00 ^^^ crcTabAt (0xFF ^^^ b) := rfl

theorem crc16_singleton_ne_zero (b : Byte) : crc16 [b] ≠ 0 := by
  rw [crc16_singleton]
  exact fun h => crcTabAt_ne_FF00 _ (BitVec.xor_eq_zero_iff.mp h).symm

/-- Settles O16: the register's own two bytes clear it, and one byte alone never does. -/
theorem residueLaws : Obligations.ResidueLaws := by
  refine ⟨fun p => ?_, rfl, fun b => ⟨crc16_singleton b, crc16_singleton_ne_zero b⟩, fun x hx => ?_⟩
  · exact (crcFrom_append 0xFFFF p _).trans (crcFrom_be16_self _)
  · match x, hx with
    | [], _ => decide
    | [b], _ => exact crc16_singleton_ne_zero b

/-! ### Eight bit steps -/

/-- A register whose high byte is clear is only shifted: no bit of it reaches the top in eight steps (R30). -/
theorem crcBits8_lowByte : ∀ l : Byte, crcBits8 (l.setWidth 16) = l.setWidth 16 <<< 8 := by decide +kernel

/-- Eight bit steps run the high byte through the table and shift the low byte up. -/
theorem crcBits8_eq (c : Half) : crcBits8 c = c <<< 8 ^^^ crcTabAt (c.extractLsb' 8 8) :=
  calc crcBits8 c
    _ = crcBits8 ((c.extractLsb' 8 8).setWidth 16 <<< 8) ^^^ crcBits8 ((c.extractLsb' 0 8).setWidth 16) := by
      rw [← crcBits8_xor, ← half_eq_xor_bytes]
    _ = crcTabAt (c.extractLsb' 8 8) ^^^ c <<< 8 := by
      rw [← crcTabAt_eq_crcBits8, crcBits8_lowByte, setWidth_lowByte_shiftLeft_8]
    _ = c <<< 8 ^^^ crcTabAt (c.extractLsb' 8 8) := BitVec.xor_comm _ _

/-- One byte of the bitwise computation is one table step (R116). -/
theorem crcBits8_xor_byte (c : Half) (b : Byte) : crcBits8 (c ^^^ (b.setWidth 16 : Half) <<< 8) = crcUpdate c b := by
  rw [crcBits8_xor, crcBits8_eq, ← crcTabAt_eq_crcBits8, BitVec.xor_assoc, ← crcTabAt_xor, crcUpdate_eq]

/-- Settles O17: both are the same fold, by the step of each. -/
theorem bitwiseCrcIsTheTableCrc : Obligations.BitwiseCrcIsTheTableCrc := by
  intro x
  simp only [crc16Bitwise, crcBits8_xor_byte]
  rfl

/-! ### The commands -/

/-- A command with an over-long operand returns `CapacityError`, whatever its work is (30_encoding.md R86). -/
theorem returns_withOperand_tooLong {s : State} {din : List Byte} (h : s.params.maxOperand < din.length)
    (work : State) : Returns (.next (s.withOperand din work)) s .capacityError 0 none := by
  rw [s.withOperand_tooLong din work h]
  exact returns_fail s .capacityError

/-- A command whose operand fits returns what its work does. -/
theorem returns_withOperand_fits {s work : State} {din : List Byte} {st : Status} {r : Half} {d : Option (List Byte)}
    (h : din.length ≤ s.params.maxOperand) (hwork : Returns (.next work) s st r d) :
    Returns (.next (s.withOperand din work)) s st r d := by
  rwa [s.withOperand_fits din work h]

/-- Settles O13: the operand check, then one `finish`. -/
theorem crcComputeReturnsTheCrc : Obligations.CrcComputeReturnsTheCrc := by
  intro s arg din
  exact ⟨decode_of_carries ⟨rfl, nofun, fun _ => rfl⟩, fun hlong => returns_withOperand_tooLong hlong _,
    fun hfits => returns_withOperand_fits hfits (returns_finish s .ok _ none)⟩

/-- An operand with no room for two more bytes is refused by one of the two checks of R112, with the same result. -/
theorem returns_crcAppend_noRoom {s : State} {din : List Byte} (h : s.params.scratchCap < din.length + 2) (arg : Half) :
    Returns (exec (.crcAppend arg din) s) s .capacityError 0 none := by
  by_cases hlong : s.params.maxOperand < din.length
  · exact returns_withOperand_tooLong hlong _
  · refine returns_withOperand_fits (Nat.not_lt.mp hlong) ?_
    rw [if_pos h]
    exact returns_fail s .capacityError

theorem returns_crcAppend_fits {s : State} {din : List Byte} (h : din.length + 2 ≤ s.params.scratchCap) (arg : Half) :
    Returns (exec (.crcAppend arg din) s) s .ok (countResult (din.length + 2)) (some (din ++ be16 arg)) := by
  refine returns_withOperand_fits (Nat.le_of_add_right_le h) ?_
  rw [if_neg (Nat.not_lt.mpr h)]
  exact returns_scrWrite_finish s _ .ok _ _

/-- Settles O14: the room for two bytes is what both checks come to. -/
theorem crcAppendAppendsHighByteFirst : Obligations.CrcAppendAppendsHighByteFirst := by
  intro s arg din
  exact ⟨decode_of_carries ⟨rfl, fun _ => rfl, fun _ => rfl⟩, fun hfull => returns_crcAppend_noRoom hfull arg,
    fun hroom => returns_crcAppend_fits hroom arg⟩

/-- The verdict of R113 is 1 on residue zero and else 0. -/
theorem verdictResult_residueZero (x : List Byte) : verdictResult (residueZero x) = if crc16 x = 0 then 1 else 0 := by
  simp [verdictResult, residueZero]

/-- Settles O15: the operand check, then one `finish` with `OK` on either verdict. -/
theorem crcVerifyReturnsTheVerdict : Obligations.CrcVerifyReturnsTheVerdict := by
  intro s arg din
  refine ⟨decode_of_carries ⟨rfl, nofun, fun _ => rfl⟩, fun hlong => returns_withOperand_tooLong hlong _,
    fun hfits => ?_⟩
  rw [← verdictResult_residueZero]
  exact returns_withOperand_fits hfits (returns_finish s .ok _ none)

end Sys2Proof.Machine
end

section
/-! The byte stuffer and its inverse (41_stuffer.md R130, R133): `stuff` writes one wire symbol for each byte, a plain
byte or an escape pair, and the decoder reads exactly those symbols; hence the laws of R135. With them, the two commands
(R132, R134). -/

namespace Sys2Proof.Machine

/-! ### The wire symbols -/

/-- The escape targets of R133: what the two escaped bytes become under the XOR of R130. -/
theorem needsEscape_xor_escXor : ∀ c : Byte, needsEscape (c ^^^ escXor) = decide (c = 0x5E ∨ c = 0x5D) := by decide

theorem unstuff_flag (e : List Byte) : unstuff (0x7E :: e) = none := by
  rw [unstuff_cons]
  exact if_pos rfl

theorem unstuff_plain {b : Byte} (hflag : b ≠ 0x7E) (hescape : b ≠ 0x7D) (e : List Byte) :
    unstuff (b :: e) = (unstuff e).map (b :: ·) := by
  rw [unstuff_cons]
  exact (if_neg hflag).trans (if_neg hescape)

theorem unstuff_escape_alone : unstuff [0x7D] = none := by
  rw [unstuff_cons]
  rfl

theorem unstuff_escape_pair (c : Byte) (e : List Byte) :
    unstuff (0x7D :: c :: e) =
      if c = 0x5E ∨ c = 0x5D then (unstuff e).map ((c ^^^ escXor) :: ·) else none := by
  have hread : unstuff (0x7D :: c :: e) =
      if needsEscape (c ^^^ escXor) then (unstuff e).map ((c ^^^ escXor) :: ·) else none := unstuff_cons 0x7D (c :: e)
  simpa only [needsEscape_xor_escXor, decide_eq_true_iff] using hread

/-- Settles O20: each row of the table is one branch of the decoder. -/
theorem wireSymbolsDecode : Obligations.WireSymbolsDecode :=
  ⟨unstuff_nil, fun e => ⟨fun _ hflag hescape => unstuff_plain hflag hescape e,
    (unstuff_escape_pair 0x5E e).trans (if_pos (.inl rfl)), (unstuff_escape_pair 0x5D e).trans (if_pos (.inr rfl)),
    fun x h5E h5D => (unstuff_escape_pair x e).trans (if_neg (not_or.mpr ⟨h5E, h5D⟩)),
    unstuff_escape_alone, unstuff_flag e⟩⟩

theorem stuffByte_plain {b : Byte} (hflag : b ≠ 0x7E) (hescape : b ≠ 0x7D) : stuffByte b = [b] := by
  have hneeds : needsEscape b = false := by
    rw [needsEscape_eq]
    exact decide_eq_false (not_or.mpr ⟨hflag, hescape⟩)
  simp [stuffByte, hneeds]

theorem stuffByte_xor_escXor {c : Byte} (hc : c = 0x5E ∨ c = 0x5D) : stuffByte (c ^^^ escXor) = [0x7D, c] := by
  obtain rfl | rfl := hc <;> rfl

/-- The stuffer writes a byte as itself or as an escape pair (R130). -/
theorem stuffByte_cases (b : Byte) :
    (b ≠ 0x7E ∧ b ≠ 0x7D ∧ stuffByte b = [b]) ∨
      ∃ c : Byte, (c = 0x5E ∨ c = 0x5D) ∧ c ^^^ escXor = b ∧ stuffByte b = [0x7D, c] := by
  obtain rfl | hflag := eq_or_ne b 0x7E
  · exact .inr ⟨0x5E, .inl rfl, rfl, rfl⟩
  obtain rfl | hescape := eq_or_ne b 0x7D
  · exact .inr ⟨0x5D, .inr rfl, rfl, rfl⟩
  · exact .inl ⟨hflag, hescape, stuffByte_plain hflag hescape⟩

/-! ### The laws -/

/-- The decoder reads one symbol of the stuffer as the byte it stands for, whatever follows. -/
theorem unstuff_stuffByte_append (b : Byte) (e : List Byte) :
    unstuff (stuffByte b ++ e) = (unstuff e).map (b :: ·) := by
  obtain ⟨hflag, hescape, hb⟩ | ⟨c, hc, rfl, hb⟩ := stuffByte_cases b
  · rw [hb]
    exact unstuff_plain hflag hescape e
  · rw [hb]
    exact (unstuff_escape_pair c e).trans (if_pos hc)

@[simp] theorem unstuff_stuff (x : List Byte) : unstuff (stuff x) = some x := by
  induction x with
  | nil => exact unstuff_nil
  | cons b x ih => rw [stuff_cons, unstuff_stuffByte_append, ih, Option.map_some]

/-- What the decoder accepts is the stuffed form of what it gives: each byte was read from its own symbol (R135). -/
theorem eq_stuff_of_unstuff {e x : List Byte} (h : unstuff e = some x) : e = stuff x := by
  induction e using unstuff.induct generalizing x with
  | case1 => cases h; rfl
  | case2 rest => cases (unstuff_flag rest).symm.trans h
  | case3 => cases unstuff_escape_alone.symm.trans h
  | case4 c rest htarget _ ih =>
    change unstuff (0x7D :: c :: rest) = some x at h
    have hc : c = 0x5E ∨ c = 0x5D := by simpa only [needsEscape_xor_escXor, decide_eq_true_iff] using htarget
    rw [unstuff_escape_pair, if_pos hc] at h
    obtain ⟨v, hv, rfl⟩ := Option.map_eq_some_iff.mp h
    rw [stuff_cons, stuffByte_xor_escXor hc, ← ih hv]
    rfl
  | case5 c rest htarget _ =>
    change unstuff (0x7D :: c :: rest) = some x at h
    have hc : ¬(c = 0x5E ∨ c = 0x5D) := by simpa only [needsEscape_xor_escXor, decide_eq_true_iff] using htarget
    rw [unstuff_escape_pair, if_neg hc] at h
    cases h
  | case6 b rest hflag hescape ih =>
    rw [unstuff_plain hflag hescape] at h
    obtain ⟨v, hv, rfl⟩ := Option.map_eq_some_iff.mp h
    rw [stuff_cons, stuffByte_plain hflag hescape, ← ih hv]
    rfl

theorem flag_notMem_stuff (x : List Byte) : (0x7E : Byte) ∉ stuff x := by
  induction x with
  | nil => exact List.not_mem_nil
  | cons b x ih =>
    have hsymbol : (0x7E : Byte) ∉ stuffByte b := by
      obtain ⟨hflag, -, hb⟩ | ⟨c, rfl | rfl, -, hb⟩ := stuffByte_cases b
      · simpa [hb] using hflag.symm
      · simp [hb]
      · simp [hb]
    rw [stuff_cons, List.mem_append, not_or]
    exact ⟨hsymbol, ih⟩

/-- An escape byte of a stuffed sequence begins a pair, for it is neither a plain byte nor the target of a pair. -/
theorem head?_after_escape_of_stuff {x u v : List Byte} (h : stuff x = u ++ 0x7D :: v) :
    v.head? = some 0x5E ∨ v.head? = some 0x5D := by
  induction x generalizing u with
  | nil => simp at h
  | cons b x ih =>
    obtain ⟨-, hescape, hb⟩ | ⟨c, hc, -, hb⟩ := stuffByte_cases b
    · rw [stuff_cons, hb] at h
      match u, h with
      | [], h => exact absurd (List.cons.inj h).1 hescape
      | _ :: _, h => exact ih (List.cons.inj h).2
    · rw [stuff_cons, hb] at h
      match u, h with
      | [], h => simpa [← (List.cons.inj h).2] using hc
      | [_], h =>
        have htarget : c = 0x7D := (List.cons.inj (List.cons.inj h).2).1
        simp [htarget] at hc
      | _ :: _ :: _, h => exact ih (List.cons.inj (List.cons.inj h).2).2

/-- Settles O21: the stuffer and its inverse agree symbol by symbol. -/
theorem stufferLaws : Obligations.StufferLaws :=
  ⟨unstuff_stuff, flag_notMem_stuff, fun _ _ _ => head?_after_escape_of_stuff, fun _ _ => eq_stuff_of_unstuff,
    fun _ _ => unstuff_length_le⟩

/-- Settles O19: the lower bound is read off the exact length. -/
theorem stuffExpansion : Obligations.StuffExpansion := by
  intro x
  have hlen := stuff_length x
  exact ⟨hlen, by omega, stuff_length_le x⟩

/-! ### The commands -/

/-- An operand too long, or a region with no room for the result, fails one of the two checks of R132. -/
theorem returns_stuffEncode_noRoom {s : State} {arg : Half} {din : List Byte}
    (h : s.params.maxOperand < din.length ∨ min arg.toNat s.params.scratchCap < (stuff din).length) :
    Returns (exec (.stuffEncode arg din) s) s .capacityError 0 none := by
  by_cases hlong : s.params.maxOperand < din.length
  · exact returns_withOperand_tooLong hlong _
  · refine returns_withOperand_fits (Nat.not_lt.mp hlong) ?_
    rw [if_pos (h.resolve_left hlong)]
    exact returns_fail s.scrHavoc .capacityError

theorem returns_stuffEncode_fits {s : State} {arg : Half} {din : List Byte} (hfits : din.length ≤ s.params.maxOperand)
    (hroom : (stuff din).length ≤ min arg.toNat s.params.scratchCap) :
    Returns (exec (.stuffEncode arg din) s) s .ok (countResult (stuff din).length) (some (stuff din)) := by
  refine returns_withOperand_fits hfits ?_
  rw [if_neg (Nat.not_lt.mpr hroom)]
  exact returns_scrWrite_finish s _ .ok _ _

/-- Settles O22: the operand check, then the check of the destination's capacity. -/
theorem stuffEncodeReturnsTheRegion : Obligations.StuffEncodeReturnsTheRegion := by
  intro s arg din
  exact ⟨decode_of_carries ⟨rfl, fun _ => rfl, fun _ => rfl⟩, returns_stuffEncode_noRoom, returns_stuffEncode_fits⟩

theorem returns_stuffDecode_none {s : State} {din : List Byte} (hfits : din.length ≤ s.params.maxOperand)
    (h : unstuff din = none) : Returns (exec (.stuffDecode din) s) s .framingError 0 none := by
  refine returns_withOperand_fits hfits ?_
  rw [h]
  exact returns_fail (s.scrWrite din).scrHavoc .framingError

theorem returns_stuffDecode_some {s : State} {din r : List Byte} (hfits : din.length ≤ s.params.maxOperand)
    (h : unstuff din = some r) : Returns (exec (.stuffDecode din) s) s .ok (countResult r.length) (some r) := by
  refine returns_withOperand_fits hfits ?_
  rw [h]
  exact returns_scrWrite_finish s din .ok _ _

/-- Settles O23: the operand check, then the verdict of the decoder. -/
theorem stuffDecodeReturnsTheRegion : Obligations.StuffDecodeReturnsTheRegion := by
  intro s arg din
  exact ⟨decode_of_carries ⟨rfl, nofun, fun _ => rfl⟩, fun hlong => returns_withOperand_tooLong hlong _,
    returns_stuffDecode_none, fun _ => returns_stuffDecode_some⟩

end Sys2Proof.Machine
end

section
/-! The CRC step loses nothing (40_crc.md R110): one bit step is injective, so a table step is, in the register and in
the byte. Hence a single flipped bit shows in the residue (42_framer.md R156, case 1), and two bytes that clear the
register are its own two bytes (R154, R155). -/

namespace Sys2Proof.Machine

/-! ### Injectivity of the CRC step -/

/-- The polynomial is odd: it leaves a 1 in bit 0 exactly where a 1 was shifted out, so nothing but 0 becomes 0. -/
theorem eq_zero_of_crcBit_eq_zero {c : Half} (h : crcBit c = 0) : c = 0 := by
  cases htop : c.getLsbD 15 with
  | true =>
    have hbit : (crcBit c).getLsbD 0 = true := by simp [crcBit, htop]
    simp [h] at hbit
  | false =>
    have hshift : c <<< 1 = 0 := by rwa [crcBit, htop] at h
    have hlow : 2 * c.toNat < 2 ^ 16 := BitVec.msb_eq_false_iff_two_mul_lt.mp htop
    bv_omega

theorem crcBit_injective : Function.Injective crcBit := fun a b h => by
  have hxor : crcBit (a ^^^ b) = 0 := (crcBit_xor a b).trans (BitVec.xor_eq_zero_iff.mpr h)
  exact BitVec.xor_eq_zero_iff.mp (eq_zero_of_crcBit_eq_zero hxor)

theorem crcBits8_injective : Function.Injective crcBits8 := crcBit_injective.iterate 8

/-- Two table steps agree exactly when the byte meets the register's high byte in the same way. -/
theorem crcUpdate_eq_iff {c d : Half} {b e : Byte} :
    crcUpdate c b = crcUpdate d e ↔ c ^^^ (b.setWidth 16 : Half) <<< 8 = d ^^^ (e.setWidth 16 : Half) <<< 8 := by
  rw [← crcBits8_xor_byte, ← crcBits8_xor_byte, crcBits8_injective.eq_iff]

theorem crcUpdate_left_injective (b : Byte) : Function.Injective (crcUpdate · b) := fun _ _ h =>
  (BitVec.xor_left_inj _).mp (crcUpdate_eq_iff.mp h)

theorem crcUpdate_right_injective (c : Half) : Function.Injective (crcUpdate c) := fun b e h => by
  have hbyte := (BitVec.xor_right_inj c).mp (crcUpdate_eq_iff.mp h)
  bv_omega

theorem crcFrom_injective (x : List Byte) : Function.Injective (crcFrom · x) := by
  induction x with
  | nil => exact Function.injective_id
  | cons b x ih => exact ih.comp (crcUpdate_left_injective b)

/-! ### One wrong byte -/

/-- Sequences that differ in one byte have different CRCs. -/
theorem eq_of_crc16_eq {a b : List Byte} {x y : Byte} (h : crc16 (a ++ x :: b) = crc16 (a ++ y :: b)) : x = y := by
  simp only [crc16, crcFrom_append] at h
  exact crcUpdate_right_injective _ (crcFrom_injective b h)

theorem flipBit_ne (x : Byte) {j : Nat} (hj : j < 8) : flipBit x j ≠ x := by
  have hmask : ∀ j < 8, ((1 <<< j : Nat) : Byte) ≠ 0 := by decide
  exact fun h => hmask j hj (xor_left_eq_self_iff.mp h)

/-- Settles O18: a flipped bit makes another byte, and another byte makes another CRC. -/
theorem crcDetectsEverySingleBitError : Obligations.CrcDetectsEverySingleBitError := by
  intro a b x j hj hzero hflipped
  exact flipBit_ne x hj (eq_of_crc16_eq (hflipped.trans hzero.symm))

/-! ### The CRC field -/

theorem be16_bytes (h l : Byte) : be16 ((h.setWidth 16 : Half) <<< 8 ^^^ l.setWidth 16) = [h, l] := by
  have hhigh : ((h.setWidth 16 : Half) <<< 8 ^^^ l.setWidth 16).extractLsb' 8 8 = h := by
    ext i hi
    have hinside : 8 + i < 16 := by omega
    simp [hinside, hi]
  have hlow : ((h.setWidth 16 : Half) <<< 8 ^^^ l.setWidth 16).extractLsb' 0 8 = l := by
    ext i hi
    have hinside : i < 16 := by omega
    simp [hinside, hi]
  rw [be16, hhigh, hlow]

/-- Two bytes that clear the register are the register's own (R114, read backwards). -/
theorem eq_be16_of_crcFrom_eq_zero {c : Half} {h l : Byte} (hzero : crcFrom c [h, l] = 0) : [h, l] = be16 c := by
  have hlast : crcUpdate c h = (l.setWidth 16 : Half) <<< 8 := by
    have hclear : crcUpdate (crcUpdate c h) l = crcUpdate 0 0 := hzero
    simpa using crcUpdate_eq_iff.mp hclear
  have hfirst : c ^^^ (h.setWidth 16 : Half) <<< 8 = l.setWidth 16 :=
    crcBits8_injective (by rw [crcBits8_xor_byte, hlast, crcBits8_lowByte])
  rw [← be16_bytes, ← hfirst, BitVec.xor_comm c, ← BitVec.xor_assoc, BitVec.xor_self, BitVec.zero_xor]

@[simp] theorem crc16_withCrc (p : List Byte) : crc16 (withCrc p) = 0 :=
  (crcFrom_append 0xFFFF p _).trans (crcFrom_be16_self _)

/-- What has residue zero is what precedes its last two bytes, with its CRC (R114). -/
theorem eq_withCrc_of_crc16_eq_zero {u : List Byte} (hzero : crc16 u = 0) : u = withCrc (u.take (u.length - 2)) := by
  obtain ⟨-, -, -, hshort⟩ := residueLaws
  have hlen : 2 ≤ u.length := Nat.not_lt.mp fun hlt => hshort u hlt hzero
  obtain ⟨h, l, htail⟩ : ∃ h l, u.drop (u.length - 2) = [h, l] :=
    List.length_eq_two.mp (by rw [List.length_drop]; omega)
  have hsplit : u.take (u.length - 2) ++ [h, l] = u := by rw [← htail, List.take_append_drop]
  have hfield : crcFrom (crc16 (u.take (u.length - 2))) [h, l] = 0 := by
    rw [crc16, ← crcFrom_append, hsplit]
    exact hzero
  rw [withCrc, ← eq_be16_of_crcFrom_eq_zero hfield, hsplit]

end Sys2Proof.Machine
end

section
/-! The framer and the deframer (42_framer.md R150, R152): the deframer's checks on the bytes between two FLAGs, what it
accepts, and with that the round trip and the shape of a frame (R154, R155), the two commands (R151, R153) and the
verdicts on a frame with one bit flipped (R156). -/

namespace Sys2Proof.Machine

/-! ### The checks -/

/-- What passes check (a) is some interior between two FLAGs. -/
theorem exists_interior_of_hasBoundaries {f : List Byte} (h : hasBoundaries f = true) :
    ∃ e, f = 0x7E :: e ++ [0x7E] := by
  obtain ⟨hlen, hhead, hlast⟩ := (hasBoundaries_iff f).mp h
  obtain ⟨rest, rfl⟩ := List.head?_eq_some_iff.mp hhead
  obtain rfl | ⟨e, b, rfl⟩ := List.eq_nil_or_concat' rest
  · simp at hlen
  · have hb : b = flagByte := Option.some.inj (List.getLast?_concat (l := flagByte :: e).symm.trans hlast)
    exact ⟨e, by rw [hb]; rfl⟩

/-- Check (a): what does not begin and end with a FLAG of its own is no frame. -/
theorem deframe_of_no_boundaries {f : List Byte} (h : ¬hasBoundaries f = true) (n : Nat) :
    deframe n f = .error .framingError := if_neg h

/-- Check (b): the interior is no stuffed region. -/
theorem deframe_of_unstuff_none {e : List Byte} (h : unstuff e = none) (n : Nat) :
    deframe n (0x7E :: e ++ [0x7E]) = .error .framingError := by
  obtain ⟨hflags, hinterior⟩ := boundaries_wrap e
  change deframe n (flagByte :: e ++ [flagByte]) = _
  simp only [deframe, hflags, hinterior, h, if_true]

/-- Checks (c) and (d): the residue, then the length of the payload. -/
theorem deframe_of_unstuff_some {e u : List Byte} (h : unstuff e = some u) (n : Nat) :
    deframe n (0x7E :: e ++ [0x7E]) =
      if crc16 u = 0 then
        if n < u.length - 2 then .error .capacityError else .ok (u.take (u.length - 2))
      else .error .integrityError := by
  obtain ⟨hflags, hinterior⟩ := boundaries_wrap e
  change deframe n (flagByte :: e ++ [flagByte]) = _
  simp only [deframe, hflags, hinterior, h, if_true, residueZero, decide_eq_true_iff]

/-- Settles O26: each clause is one branch of the deframer. -/
theorem deframerChecksInOrder : Obligations.DeframerChecksInOrder := by
  refine fun n f => ⟨fun h => deframe_of_no_boundaries (fun hflags => ?_) n, ?_⟩
  · obtain ⟨hlen, hhead, hlast⟩ := (hasBoundaries_iff f).mp hflags
    obtain hshort | hhead' | hlast' := h
    · exact absurd hlen (Nat.not_le.mpr hshort)
    · exact hhead' hhead
    · exact hlast' hlast
  · rintro e rfl
    refine ⟨fun h => deframe_of_unstuff_none h n, fun u hu => ?_⟩
    rw [deframe_of_unstuff_some hu]
    exact ⟨fun hres => if_neg hres, fun hres hlong => (if_pos hres).trans (if_pos hlong),
      fun hres hfits => (if_pos hres).trans (if_neg (Nat.not_lt.mpr hfits))⟩

/-! ### A frame and its payload -/

/-- The interior of a frame unstuffs to the payload with its CRC, whose residue is zero (R154). -/
theorem deframe_frame {n : Nat} {p : List Byte} (hfits : p.length ≤ n) : deframe n (frame p) = .ok p := by
  have hlen : (withCrc p).length - 2 = p.length := by rw [withCrc_length, Nat.add_sub_cancel]
  calc deframe n (frame p)
    _ = if n < p.length then .error .capacityError else .ok ((withCrc p).take p.length) := by
      rw [← hlen]
      exact (deframe_of_unstuff_some (unstuff_stuff (withCrc p)) n).trans (if_pos (crc16_withCrc p))
    _ = .ok ((withCrc p).take p.length) := if_neg (Nat.not_lt.mpr hfits)
    _ = .ok p := by rw [withCrc, List.take_left]

/-- Settles O28: the payload with its CRC passes every check of the deframer. -/
theorem frameRoundTrip : Obligations.FrameRoundTrip := fun _ _ => deframe_frame

/-- The deframer accepts nothing but the frame of what it gives (R155). -/
theorem eq_frame_of_deframe {n : Nat} {f p : List Byte} (h : deframe n f = .ok p) : f = frame p := by
  by_cases hflags : hasBoundaries f = true
  case neg => cases (deframe_of_no_boundaries hflags n).symm.trans h
  obtain ⟨e, rfl⟩ := exists_interior_of_hasBoundaries hflags
  cases hu : unstuff e with
  | none => cases (deframe_of_unstuff_none hu n).symm.trans h
  | some u =>
    rw [deframe_of_unstuff_some hu] at h
    split at h
    case isFalse => cases h
    case isTrue hres =>
      split at h
      case isTrue => cases h
      case isFalse =>
        cases h
        rw [eq_stuff_of_unstuff hu, frame, ← eq_withCrc_of_crc16_eq_zero hres]
        rfl

/-- Settles O29: the interior is a stuffed region of at least two bytes, and only a frame deframes. -/
theorem frameShape : Obligations.FrameShape := by
  refine ⟨fun p => ⟨stuff (withCrc p), rfl, flag_notMem_stuff _, ?_, frame_length_le p⟩,
    fun _ _ _ => eq_frame_of_deframe⟩
  rw [frame_length_eq]
  omega

/-! ### The commands -/

/-- A payload over `MAX_PAYLOAD` is refused by one of the two checks of R151, with the same result. -/
theorem returns_frameEncode_tooLong {s : State} {din : List Byte} (h : s.params.maxPayload < din.length) :
    Returns (exec (.frameEncode din) s) s .capacityError 0 none := by
  by_cases hlong : s.params.maxOperand < din.length
  · exact returns_withOperand_tooLong hlong _
  · refine returns_withOperand_fits (Nat.not_lt.mp hlong) ?_
    rw [if_pos h]
    exact returns_fail s .capacityError

theorem returns_frameEncode_fits {s : State} {din : List Byte} (h : din.length ≤ s.params.maxPayload) :
    Returns (exec (.frameEncode din) s) s .ok (countResult (frame din).length) (some (frame din)) := by
  refine returns_withOperand_fits (le_scratchCap_of_le_maxPayload h) ?_
  rw [if_neg (Nat.not_lt.mpr h)]
  exact returns_scrWrite_finish s _ .ok _ _

/-- Settles O25: the check of the payload's length, then the frame. -/
theorem frameEncodeReturnsTheFrame : Obligations.FrameEncodeReturnsTheFrame := by
  intro s arg din
  exact ⟨decode_of_carries ⟨rfl, nofun, fun _ => rfl⟩, returns_frameEncode_tooLong, returns_frameEncode_fits⟩

theorem returns_frameDecode_error {s : State} {din : List Byte} {e : Status} (hfits : din.length ≤ s.params.maxOperand)
    (h : deframe s.params.maxPayload din = .error e) : Returns (exec (.frameDecode din) s) s e 0 none := by
  refine returns_withOperand_fits hfits ?_
  rw [h]
  exact returns_fail (s.scrWrite din).scrHavoc e

theorem returns_frameDecode_ok {s : State} {din p : List Byte} (hfits : din.length ≤ s.params.maxOperand)
    (h : deframe s.params.maxPayload din = .ok p) :
    Returns (exec (.frameDecode din) s) s .ok (countResult p.length) (some p) := by
  refine returns_withOperand_fits hfits ?_
  rw [h]
  exact returns_scrWrite_finish s din .ok _ _

/-- Settles O27: the operand check, then the verdict of the deframer. -/
theorem frameDecodeReturnsThePayload : Obligations.FrameDecodeReturnsThePayload := by
  intro s arg din
  exact ⟨decode_of_carries ⟨rfl, nofun, fun _ => rfl⟩, fun hlong => returns_withOperand_tooLong hlong _,
    fun _ => returns_frameDecode_error, fun _ => returns_frameDecode_ok⟩

/-! ### One flipped bit -/

/-- The decoder reads a stuffed region to its end, whatever follows. -/
theorem unstuff_stuff_append (x e : List Byte) : unstuff (stuff x ++ e) = (unstuff e).map (x ++ ·) := by
  induction x with
  | nil => simp
  | cons b x ih =>
    rw [stuff_cons, List.append_assoc, unstuff_stuffByte_append, ih, Option.map_map]
    rfl

/-- Whatever precedes it, a stuffed region does not save what the decoder rejects. -/
theorem unstuff_stuff_append_eq_none {e : List Byte} (h : unstuff e = none) (x : List Byte) :
    unstuff (stuff x ++ e) = none := by
  rw [unstuff_stuff_append, h, Option.map_none]

/-- A literal byte between two stuffed regions stands for itself. -/
theorem unstuff_stuff_append_plain {y : Byte} (hflag : y ≠ 0x7E) (hescape : y ≠ 0x7D) (a b : List Byte) :
    unstuff (stuff a ++ y :: stuff b) = some (a ++ y :: b) := by
  rw [unstuff_stuff_append, unstuff_plain hflag hescape, unstuff_stuff]
  rfl

/-- The two escape targets differ in two bits, so a flipped bit leaves neither (R156, case 3). -/
theorem flipBit_escapeTarget_ne {x : Byte} {j : Nat} (hx : x = 0x7E ∨ x = 0x7D) (hj : j < 8) :
    ¬(flipBit (x ^^^ 0x20) j = 0x5E ∨ flipBit (x ^^^ 0x20) j = 0x5D) := by
  have hflips : ∀ c ∈ ([0x5E, 0x5D] : List Byte), ∀ j < 8, ¬(flipBit c j = 0x5E ∨ flipBit c j = 0x5D) := by decide
  refine hflips _ ?_ j hj
  obtain rfl | rfl := hx <;> decide

/-- Settles O30: a plain byte changed to another fails the residue; a bare FLAG and a pair with no escape target fail
the stuffer's inverse. -/
theorem singleBitFlipVerdicts : Obligations.SingleBitFlipVerdicts := by
  intro n p a b x j hj hsplit
  have hres : crc16 (a ++ x :: b) = 0 := hsplit ▸ crc16_withCrc p
  refine ⟨fun _ _ hflag hescape => ?_, fun _ _ hflag => ?_, fun hx => ?_⟩
  · rw [deframe_of_unstuff_some (unstuff_stuff_append_plain hflag hescape a b)]
    exact if_neg (crcDetectsEverySingleBitError a b x j hj hres)
  · rw [hflag]
    exact deframe_of_unstuff_none (unstuff_stuff_append_eq_none (unstuff_flag _) a) n
  · have hpair : unstuff (0x7D :: flipBit (x ^^^ 0x20) j :: stuff b) = none := by
      rw [unstuff_escape_pair]
      exact if_neg (flipBit_escapeTarget_ne hx hj)
    exact deframe_of_unstuff_none (unstuff_stuff_append_eq_none hpair a) n

end Sys2Proof.Machine
end

section
/-! A frame that the source holds whole (43_line_session.md R192, R199): the fill takes all of its bytes, and the scan
delivers it. -/

namespace Sys2Proof.Machine

/-- A fill with room takes the bytes the source gives before it has none, in order (R192). -/
theorem fillLoop_listed {x : List Byte} {more : List (Option Byte)} {n : Nat} {p : Ports}
    (hroom : x.length ≤ n) (hsource : p.sourceAnswers = x.map some ++ none :: more) (a : List Byte) :
    (fillLoop n a p).1 = a ++ x := by
  induction x generalizing n a p with
  | nil =>
    rw [List.append_nil]
    cases n with
    | zero => rfl
    | succ n => simp only [fillLoop, Ports.poll_listed _ _ _ hsource]
  | cons b x ih =>
    cases n with
    | zero => cases hroom
    | succ n =>
      simp only [fillLoop, Ports.poll_listed _ _ _ hsource]
      rw [ih (Nat.le_of_succ_le_succ hroom) rfl, List.append_assoc]
      rfl

/-- The scan delivers the payload of a frame at the head of the FIFO, and leaves what follows it (R199). -/
theorem scanLoop_frame_append {P : Params} {arg : Half} {p : List Byte} (hfits : p.length ≤ P.maxPayload)
    (harg : p.length ≤ arg.toNat) (n : Nat) (rest : List Byte) :
    scanLoop P arg (n + 1) (frame p ++ rest) = (rest, some p) := by
  have hverdict : judge P.maxPayload arg (flagByte :: stuff (withCrc p) ++ [flagByte]) = some p :=
    judge_some (deframe_frame hfits) harg
  have hbytes : frame p ++ rest = flagByte :: stuff (withCrc p) ++ flagByte :: rest := by simp [frame]
  rw [hbytes, scanLoop_candidate P arg n (flag_notMem_stuff _), hverdict]

/-- Settles O44: the fill leaves exactly the frame in the FIFO. -/
theorem wholeFrameIsReceived : Obligations.WholeFrameIsReceived := by
  intro s arg p more hinit hen hacc hfits harg hsource
  have hroom : (frame p).length ≤ s.params.accCap - s.acc.length := by
    rw [hacc]
    exact frame_length_le_scratchCap hfits
  have hfilled : s.filled.1 = frame p ++ [] := by
    rw [List.append_nil, State.filled, fillLoop_listed hroom hsource, hacc, List.nil_append]
  have hscanned : s.scanned arg s.filled.1 = ([], some p) := by
    rw [hfilled]
    exact scanLoop_frame_append hfits harg _ []
  obtain ⟨s1, ep, hexec, -⟩ := exec_lineReceive_runs s arg hinit hen
  rw [hscanned] at hexec
  exact ⟨_, hexec, ⟨rfl, rfl, rfl⟩, rfl⟩

end Sys2Proof.Machine
end

section
/-! The line commands outside their loops (43_line_session.md R171, R182) and the transmit machine (R180 to R186): what
`LINE_INIT` leaves, and what the loop of R180 leaves at the sink, whether it accepts the whole frame or refuses a byte. -/

namespace Sys2Proof.Machine

/-- The bits of the value `LINE_INIT` writes (10_state.md R22, R171). -/
theorem lcfgValue_bits : ∀ rx tx, (lcfgValue rx tx).getLsbD 0 = tx ∧ (lcfgValue rx tx).getLsbD 1 = rx ∧
    (lcfgValue rx tx).getLsbD 2 = true ∧ (lcfgValue rx tx).extractLsb' 3 5 = 0 := by decide

/-- Settles O31: `LINE_INIT` writes `LCFG`, flushes `ACC` and finishes. -/
theorem lineInitConfiguresTheLine : Obligations.LineInitConfiguresTheLine := by
  intro s arg din rx tx
  obtain ⟨htx, hrx, hinit, hzero⟩ := lcfgValue_bits rx tx
  exact ⟨decode_of_carries ⟨rfl, nofun, nofun⟩, _, rfl, htx, hrx, hinit, hzero, rfl, ⟨rfl, rfl, rfl⟩, rfl,
    rfl, rfl, rfl, rfl⟩

/-- Settles O32: both refusals leave the transmit machine where it was between commands. -/
theorem lineSendChecksFirst : Obligations.LineSendChecksFirst := by
  rintro s din ⟨htxs, -⟩
  refine ⟨fun hcannot => ?_, fun hinit hen hlong => ?_⟩
  · exact ⟨_, exec_lineSend_notConfigured s din hcannot, ⟨rfl, rfl, rfl⟩, ⟨rfl, rfl⟩, rfl, rfl, htxs.symm, rfl, rfl⟩
  · exact ⟨_, exec_lineSend_tooLong s din hinit hen hlong, ⟨rfl, rfl, rfl⟩, ⟨rfl, rfl⟩, rfl, rfl, htxs.symm, rfl, rfl⟩

/-! ### The transmit machine -/

/-- The results of a transmit that started at the first byte: `OK` and the length, or `TransportError` and the number
of bytes accepted (R184, R186). -/
theorem txEnd_holds (s : State) (len : Nat) (o : Bool × Nat × Ports) :
    if o.1 then (txEnd s len 0 o).Holds .ok (countResult len) none
    else (txEnd s len 0 o).Holds .transportError (countResult o.2.1) none := by
  unfold txEnd
  split
  · exact ⟨rfl, rfl, rfl⟩
  · rw [Nat.zero_add]; exact ⟨rfl, rfl, rfl⟩

theorem txEnd_host (s : State) (len i : Nat) (o : Bool × Nat × Ports) : (txEnd s len i o).host = s.host := by
  unfold txEnd
  split <;> rfl

/-- Settles O33: the machine's end, whose frame and results depend on the loop's answers alone. -/
theorem lineSendRunsItsLoop : Obligations.LineSendRunsItsLoop := by
  intro s din hinit hen hfits
  obtain ⟨s1, hexec, hparams, hlcfg, hacc, -, hhost, hrxs⟩ := exec_lineSend_runs s din hinit hen hfits
  obtain ⟨hparams', ⟨hlcfg', hacc'⟩, htxs', hrxs'⟩ :=
    txEnd_frame s1 (frame din).length 0 (offerAll (frame din) s.ports)
  exact ⟨_, hexec, ⟨hlcfg'.trans hlcfg, hacc'.trans hacc⟩, txEnd_ports _ _ _ _, hparams'.trans hparams, htxs',
    hrxs'.trans hrxs, (txEnd_host _ _ _ _).trans hhost, txEnd_holds _ _ _⟩

/-! ### What reaches the sink -/

/-- What stands outside the ports once the sink has accepted the bytes `x`, with the answers `more` still to come. -/
def Ports.accepted (p : Ports) (x : List Byte) (more : List Bool) : Ports :=
  { p with sinkAnswers := more, events := p.events ++ x.map (fun b => .offer b true) }

theorem Ports.accepted_accepted (p : Ports) (x y : List Byte) (l more : List Bool) :
    (p.accepted x l).accepted y more = p.accepted (x ++ y) more := by
  simp [Ports.accepted]

/-- The loop of R180 over bytes the sink accepts goes on with what follows them. -/
theorem offerAll_append_of_accepted {x : List Byte} {more : List Bool} {p : Ports}
    (hsink : p.sinkAnswers = List.replicate x.length true ++ more) (y : List Byte) :
    offerAll (x ++ y) p = ((offerAll y (p.accepted x more)).1, (offerAll y (p.accepted x more)).2.1 + x.length,
      (offerAll y (p.accepted x more)).2.2) := by
  induction x generalizing p with
  | nil =>
    have hsame : p.accepted [] more = p := by
      cases p
      simp_all [Ports.accepted]
    simp [hsame]
  | cons b x ih =>
    have hoffer : p.offer b = (true, p.accepted [b] (List.replicate x.length true ++ more)) :=
      Ports.offer_listed p b true _ hsink
    have hnext := ih (p := p.accepted [b] (List.replicate x.length true ++ more)) rfl
    rw [Ports.accepted_accepted, List.singleton_append] at hnext
    simp only [List.cons_append, offerAll, hoffer, hnext, if_true, List.length_cons, Nat.add_assoc]

/-- A sink that accepts every byte (R184). -/
theorem offerAll_of_accepted {f : List Byte} {more : List Bool} {p : Ports}
    (hsink : p.sinkAnswers = List.replicate f.length true ++ more) :
    offerAll f p = (true, f.length, p.accepted f more) := by
  have hloop := offerAll_append_of_accepted hsink []
  rwa [List.append_nil, offerAll, Nat.zero_add] at hloop

/-- A sink that accepts the bytes `x` and refuses the next one (R186). -/
theorem offerAll_of_refused {x y : List Byte} {b : Byte} {more : List Bool} {p : Ports}
    (hsink : p.sinkAnswers = List.replicate x.length true ++ false :: more) :
    offerAll (x ++ b :: y) p =
      (false, x.length, ((p.accepted x (false :: more)).offer b).2) := by
  rw [offerAll_append_of_accepted hsink]
  simp [offerAll, Ports.offer_listed (p.accepted x (false :: more)) b false more rfl]

/-- Settles O34: the loop over the whole frame is accepted. -/
theorem lineSendTransmitsTheFrame : Obligations.LineSendTransmitsTheFrame := by
  intro s din more hinit hen hfits hsink
  obtain ⟨t, hexec, hline, hports, -, -, -, -, hresult⟩ := lineSendRunsItsLoop s din hinit hen hfits
  rw [offerAll_of_accepted hsink] at hports hresult
  exact ⟨t, hexec, hresult, hline, hports⟩

/-- Settles O35: the loop accepts the bytes before byte `i` of the frame and stops there. -/
theorem lineSendStopsAtTheFirstRefusal : Obligations.LineSendStopsAtTheFirstRefusal := by
  intro s din i b more hinit hen hfits hi hsink
  obtain ⟨t, hexec, hline, hports, -, -, -, -, hresult⟩ := lineSendRunsItsLoop s din hinit hen hfits
  obtain ⟨hlt, hb⟩ := List.getElem?_eq_some_iff.mp hi
  have hlen : ((frame din).take i).length = i := List.length_take_of_le hlt.le
  have hsplit : (frame din).take i ++ b :: (frame din).drop (i + 1) = frame din := by
    rw [← hb, List.getElem_cons_drop, List.take_append_drop]
  have hloop := offerAll_of_refused (x := (frame din).take i) (y := (frame din).drop (i + 1)) (b := b) (by rwa [hlen])
  rw [hsplit, hlen] at hloop
  rw [hloop] at hports hresult
  rw [Ports.offer_listed _ b false more rfl] at hports
  exact ⟨t, hexec, hresult, hline, hports⟩

end Sys2Proof.Machine
end

section
/-! The receive machine (43_line_session.md R189 to R193): how a `LINE_RECEIVE` ends, given what its fill and its scan
give, and which bytes the fill takes from the source. -/

namespace Sys2Proof.Machine

/-- Settles O36: the refusal leaves the receive machine where it was between commands. -/
theorem lineReceiveChecksFirst : Obligations.LineReceiveChecksFirst := by
  rintro s arg ⟨-, hrxs⟩ hcannot
  exact ⟨_, exec_lineReceive_notConfigured s arg hcannot, ⟨rfl, rfl, rfl⟩, ⟨rfl, rfl⟩, rfl, rfl, rfl, hrxs.symm, rfl⟩

/-- `t` is where a `LINE_RECEIVE` of `s` ends whose scan gives `l`: the bytes it leaves in the FIFO, and the payload it
delivers, if any; with none, the result is that of the empty payload (R199, R203). -/
structure State.Received (s t : State) (l : List Byte × Option (List Byte)) : Prop where
  holds : t.Holds .ok (countResult (l.2.getD []).length) (some (l.2.getD []))
  acc : t.acc = l.1
  ports : t.ports = s.filled.2
  lcfg : t.lcfg = s.lcfg
  params : t.params = s.params
  txs : t.txs = s.txs
  rxs : t.rxs = .idle
  host : t.host = s.host

/-- A receive between commands leaves what no command changes. -/
theorem State.Received.sameRest {s t : State} {l : List Byte × Option (List Byte)} (h : s.Received t l)
    (hidle : s.Idle) : s.SameRest t :=
  ⟨h.params, h.txs, h.rxs.trans hidle.2.symm, h.host⟩

/-- Past its check, `LINE_RECEIVE` ends as its fill and its scan say. -/
theorem exec_lineReceive_received {s : State} {arg : Half} {l : List Byte × Option (List Byte)}
    (hinit : s.inited = true) (hen : s.rxEn = true) (hscan : s.scanned arg s.filled.1 = l) :
    ∃ t, exec (.lineReceive arg) s = .next t ∧ s.Received t l := by
  obtain ⟨s1, ep, hexec, hparams, hlcfg, hports, hhost, htxs⟩ := exec_lineReceive_runs s arg hinit hen
  rw [hscan] at hexec
  exact ⟨_, hexec, ⟨rfl, rfl, rfl⟩, rfl, hports, hlcfg, hparams, htxs, rfl, hhost⟩

/-- Settles O37: a receive that delivers nothing has the result of the empty payload. -/
theorem lineReceiveRunsItsLoops : Obligations.LineReceiveRunsItsLoops := by
  intro s arg hinit hen
  obtain ⟨t, hexec, h⟩ := exec_lineReceive_received (arg := arg) hinit hen rfl
  refine ⟨t, hexec, h.lcfg, h.ports, h.acc, h.params, h.txs, h.rxs, h.host, ?_⟩
  have hresult := h.holds
  cases hpayload : (s.scanned arg s.filled.1).2 with
  | none => rwa [hpayload] at hresult
  | some p => rwa [hpayload] at hresult

/-! ### The fill -/

/-- The fill appends the bytes it takes; it ends with the FIFO full, or with the first poll that gives none. -/
theorem fillLoop_takes (n : Nat) (a : List Byte) (p : Ports) :
    ∃ bytes, (fillLoop n a p).1 = a ++ bytes ∧
      (bytes.length = n ∧ (fillLoop n a p).2.events = p.events ++ bytes.map (fun b => .poll (some b)) ∨
        bytes.length < n ∧
          (fillLoop n a p).2.events = p.events ++ bytes.map (fun b => .poll (some b)) ++ [.poll none]) := by
  induction n generalizing a p with
  | zero => exact ⟨[], by simp [fillLoop], .inl ⟨rfl, by simp [fillLoop]⟩⟩
  | succ n ih =>
    have hpoll := p.poll_events.1
    cases hanswer : p.poll.1 with
    | none =>
      refine ⟨[], by simp [fillLoop, hanswer], .inr ⟨n.succ_pos, ?_⟩⟩
      simpa [fillLoop, hanswer] using hpoll
    | some b =>
      obtain ⟨bytes, hbytes, hend⟩ := ih (a ++ [b]) p.poll.2
      have hfill : fillLoop (n + 1) a p = fillLoop n (a ++ [b]) p.poll.2 := by simp [fillLoop, hanswer]
      refine ⟨b :: bytes, by simpa [hfill] using hbytes, ?_⟩
      simpa [hfill, hpoll, hanswer] using hend

/-- A full FIFO takes nothing, and the source is not polled (R192). -/
theorem State.filled_of_full {s : State} (hfull : s.params.accCap ≤ s.acc.length) : s.filled = (s.acc, s.ports) := by
  rw [State.filled, Nat.sub_eq_zero_of_le hfull, fillLoop]

/-- Settles O38: the bytes the fill took are those its polls gave. -/
theorem fillTakesBytesInOrder : Obligations.FillTakesBytesInOrder := by
  intro s arg hinit hen hcap
  obtain ⟨bytes, hfilled, hend⟩ := fillLoop_takes (s.params.accCap - s.acc.length) s.acc s.ports
  change s.filled.1 = s.acc ++ bytes at hfilled
  obtain ⟨t, hexec, hreceived⟩ := exec_lineReceive_received (arg := arg) hinit hen rfl
  obtain ⟨-, -, hdout⟩ := hreceived.holds
  refine ⟨t, bytes, hexec, ?_⟩
  rw [← hfilled, hreceived.ports]
  refine ⟨hreceived.acc, hdout, ?_⟩
  exact hend.imp (fun ⟨hlen, hevents⟩ => ⟨by omega, hevents⟩) (fun ⟨hlen, hevents⟩ => ⟨by omega, hevents⟩)

end Sys2Proof.Machine
end

section
/-! The boundary detector (43_line_session.md R194, R195) by the FLAGs its bytes hold, none, one or more, and with it
what a receive leaves that delivers nothing (R200, R203, R210). -/

namespace Sys2Proof.Machine

/-- The detector drops bytes with no FLAG. -/
theorem locate_noFlag (m : Nat) {a : List Byte} (h : flagByte ∉ a) : locate m a = ([], none) := by
  simpa [locate] using locate_skips m (rest := []) h

/-- Bytes with one FLAG hold no candidate: they are kept from the FLAG on where at most `CAND_MAX` bytes follow it. -/
theorem locate_oneFlag (m : Nat) {g c : List Byte} (hg : flagByte ∉ g) (hc : flagByte ∉ c) :
    locate m (g ++ flagByte :: c) = if c.length ≤ m then (flagByte :: c, none) else ([], none) := by
  rw [locate_skips m hg, locate_notFound m (findIdx_flag_none.mpr hc), locate_noFlag m hc]
  by_cases hlong : m < c.length
  · rw [if_pos hlong, if_neg (by omega)]
  · rw [if_neg hlong, if_pos (by omega)]

/-- Bytes with no FLAG, with one, or with two and more, of which the first two are shown. -/
theorem flags_cases (a : List Byte) :
    flagByte ∉ a ∨ (∃ g c, a = g ++ flagByte :: c ∧ flagByte ∉ g ∧ flagByte ∉ c) ∨
      ∃ g c rest, a = g ++ flagByte :: c ++ flagByte :: rest ∧ flagByte ∉ g ∧ flagByte ∉ c := by
  by_cases ha : flagByte ∈ a
  case neg => exact .inl ha
  obtain ⟨g, r, rfl, hg⟩ := List.eq_append_cons_of_mem ha
  by_cases hr : flagByte ∈ r
  · obtain ⟨c, rest, rfl, hc⟩ := List.eq_append_cons_of_mem hr
    exact .inr (.inr ⟨g, c, rest, by simp, hg, hc⟩)
  · exact .inr (.inl ⟨g, r, rfl, hg, hr⟩)

/-- The bytes from the first FLAG on are the candidate the detector finds, where there is a second FLAG. -/
theorem locate_twoFlags (m : Nat) {g c : List Byte} (hg : flagByte ∉ g) (hc : flagByte ∉ c) (rest : List Byte) :
    locate m (g ++ flagByte :: c ++ flagByte :: rest) =
      (flagByte :: c ++ flagByte :: rest, some (c.length + 1)) := by
  rw [List.append_assoc, locate_skips m hg, locate_candidate m hc]

/-- Where the detector finds no candidate, there is at most one FLAG. -/
theorem flags_of_locate_none {m : Nat} {a : List Byte} (h : (locate m a).2 = none) :
    flagByte ∉ a ∨ ∃ g c, a = g ++ flagByte :: c ∧ flagByte ∉ g ∧ flagByte ∉ c := by
  obtain ha | ha | ⟨g, c, rest, rfl, hg, hc⟩ := flags_cases a
  · exact .inl ha
  · exact .inr ha
  · rw [locate_twoFlags m hg hc] at h
    cases h

/-- Where the detector finds no candidate, it leaves nothing or a partial one (R200). -/
theorem locate_none_partial {P : Params} {a : List Byte} (h : (locate P.candMax a).2 = none) :
    PartialCandidate P (locate P.candMax a).1 := by
  obtain ha | ⟨g, c, rfl, hg, hc⟩ := flags_of_locate_none h
  · rw [locate_noFlag _ ha]
    exact .inl rfl
  · rw [locate_oneFlag _ hg hc]
    split
    case isTrue hshort => exact .inr ⟨c, rfl, hc, hshort⟩
    case isFalse => exact .inl rfl

theorem filter_flag_eq_nil {a : List Byte} (h : flagByte ∉ a) : a.filter (fun b => decide (b = flagByte)) = [] := by
  rw [List.filter_eq_nil_iff]
  intro b hb hflag
  exact h (of_decide_eq_true hflag ▸ hb)

/-- Settles O39: the FLAGs of the FIFO decide what the detector does. -/
theorem detectorFindsTheNextCandidate : Obligations.DetectorFindsTheNextCandidate := by
  intro P a hcap
  refine ⟨fun t ht => ?_, fun hnone => ⟨?_, locate_none_partial hnone⟩, fun ha => locate_noFlag _ ha, ?_⟩
  · obtain ha | ⟨g, c, rfl, hg, hc⟩ | ⟨g, c, rest, rfl, hg, hc⟩ := flags_cases a
    · simp [locate_noFlag _ ha] at ht
    · rw [locate_oneFlag _ hg hc] at ht
      split at ht <;> cases ht
    · rw [locate_twoFlags _ hg hc] at ht ⊢
      cases ht
      refine ⟨g, c, rest, rfl, hg, hc, rfl, rfl, Nat.zero_le _, ?_⟩
      simp only [List.length_append, List.length_cons, Params.accCap] at hcap
      simp only [Params.candMax]
      omega
  · obtain ha | ⟨g, c, rfl, hg, hc⟩ := flags_of_locate_none hnone
    · simp [filter_flag_eq_nil ha]
    · simp [filter_flag_eq_nil hg, filter_flag_eq_nil hc]
  · rintro g c rfl hg hc
    exact locate_oneFlag _ hg hc

/-! ### A receive that delivers nothing -/

/-- A scan that finds no candidate ends at its first pass (R203). -/
theorem State.scanned_of_locate_none {s : State} {a : List Byte} (h : (locate s.params.candMax a).2 = none)
    (arg : Half) : s.scanned arg a = ((locate s.params.candMax a).1, none) := by
  simp only [State.scanned, scanLoop, h]

theorem State.scanned_noFlag (s : State) (arg : Half) {a : List Byte} (h : flagByte ∉ a) :
    s.scanned arg a = ([], none) := by
  have hlocate := locate_noFlag s.params.candMax h
  rw [s.scanned_of_locate_none (by rw [hlocate]), hlocate]

theorem State.scanned_oneFlag (s : State) (arg : Half) {g c : List Byte} (hg : flagByte ∉ g) (hc : flagByte ∉ c) :
    s.scanned arg (g ++ flagByte :: c) = if c.length ≤ s.params.candMax then (flagByte :: c, none) else ([], none) := by
  have hlocate := locate_oneFlag s.params.candMax hg hc
  rw [s.scanned_of_locate_none (by rw [hlocate]; split <;> rfl), hlocate]
  split <;> rfl

/-- A scan with passes enough that delivers nothing leaves what the detector left when it found no candidate. -/
theorem scanLoop_none_partial {P : Params} {arg : Half} {n : Nat} {a : List Byte} (hn : a.length < n)
    (h : (scanLoop P arg n a).2 = none) : PartialCandidate P (scanLoop P arg n a).1 := by
  induction n generalizing a with
  | zero => cases hn
  | succ n ih =>
    simp only [scanLoop] at h ⊢
    cases hl : (locate P.candMax a).2 with
    | none => exact locate_none_partial hl
    | some t =>
      have hle := locate_length_le P.candMax a
      obtain ⟨htail, htailIn⟩ := locate_tail_bounds hl
      have hpos := rejectedLength_pos P.policy htail
      simp only [hl] at h ⊢
      split at h
      · cases h
      · exact ih (by rw [List.length_drop]; omega) h

/-- Settles O42: the scan ends where the detector finds no candidate. -/
theorem nothingDeliveredLeavesAPartialCandidate : Obligations.NothingDeliveredLeavesAPartialCandidate := by
  intro s arg hinit hen _ hnone
  obtain ⟨t, hexec, hreceived⟩ := exec_lineReceive_received (arg := arg) hinit hen rfl
  have hresult := hreceived.holds
  rw [hnone] at hresult
  refine ⟨t, hexec, hresult, ?_⟩
  rw [hreceived.acc]
  refine ⟨scanLoop_none_partial (Nat.lt_succ_self _) hnone, scanLoop_suffix _ _ _ _, fun g c hfilled hg hc => ?_⟩
  rw [hfilled, s.scanned_oneFlag arg hg hc]
  split <;> rfl

/-- A full FIFO takes no byte, so its receive is the scan of what it holds. -/
theorem exec_lineReceive_full {s : State} {arg : Half} {l : List Byte × Option (List Byte)} (hinit : s.inited = true)
    (hen : s.rxEn = true) (hfull : s.acc.length = s.params.accCap) (hscan : s.scanned arg s.acc = l) :
    ∃ t, exec (.lineReceive arg) s = .next t ∧ s.Received t l ∧ s.SamePorts t := by
  have hfilled : s.filled = (s.acc, s.ports) := State.filled_of_full hfull.ge
  obtain ⟨t, hexec, hreceived⟩ := exec_lineReceive_received (arg := arg) (l := l) hinit hen (by rw [hfilled, hscan])
  exact ⟨t, hexec, hreceived, hreceived.ports.trans (by rw [hfilled])⟩

/-- Settles O50: the one FLAG of a full FIFO is followed by more than `CAND_MAX` bytes only where it is the head. -/
theorem fullFifoWithoutATailIsDropped : Obligations.FullFifoWithoutATailIsDropped := by
  intro s arg hinit hen hfull
  have hends : ∀ a, s.scanned arg s.acc = (a, none) →
      ∃ t, exec (.lineReceive arg) s = .next t ∧ t.Holds .ok 0 (some []) ∧ t.acc = a ∧ s.SamePorts t := by
    intro a hscan
    obtain ⟨t, hexec, hreceived, hports⟩ := exec_lineReceive_full hinit hen hfull hscan
    exact ⟨t, hexec, hreceived.holds, hreceived.acc, hports⟩
  refine ⟨fun b rest hacc hrest => hends [] ?_, fun g c hacc hne hg hc => hends _ ?_⟩
  · by_cases hb : b = flagByte
    · have hlong : ¬ rest.length ≤ s.params.candMax := by
        simp only [hacc, List.length_cons, Params.accCap] at hfull
        simp only [Params.candMax]
        omega
      have hone := s.scanned_oneFlag arg (g := []) List.not_mem_nil hrest
      rw [if_neg hlong] at hone
      rw [hacc, hb]
      exact hone
    · refine s.scanned_noFlag arg ?_
      rw [hacc, List.mem_cons, not_or]
      exact ⟨Ne.symm hb, hrest⟩
  · have hpos := List.length_pos_of_ne_nil hne
    have hshort : c.length ≤ s.params.candMax := by
      simp only [hacc, List.length_append, List.length_cons, Params.accCap] at hfull
      simp only [Params.candMax]
      omega
    rw [hacc, s.scanned_oneFlag arg hg hc, if_pos hshort]

end Sys2Proof.Machine
end

section
/-! A receive whose FIFO begins with a candidate and whose source has nothing (43_line_session.md R196 to R199): the scan
delivers it or goes on behind it, and what becomes of the frames that follow a rejected one (R205, R206, R208). -/

namespace Sys2Proof.Machine

/-! ### The verdict -/

/-- Settles O49: a payload the deframer gives has at most `MAX_PAYLOAD` bytes. -/
theorem capacityOfTheCaller : Obligations.CapacityOfTheCaller := by
  intro n arg c p hp
  refine ⟨fun hlong => judge_none fun q hq => ?_, fun hroom => judge_some hp ((deframe_length_le hp).trans hroom)⟩
  cases hp.symm.trans hq
  exact hlong

/-- Two FLAGs with nothing between them are no frame: the empty sequence has no residue zero (40_crc.md R114). -/
theorem judge_emptyCandidate (n : Nat) (arg : Half) : judge n arg (flagByte :: [] ++ [flagByte]) = none := by
  have hverdict : deframe n (0x7E :: [] ++ [0x7E]) = .error .integrityError :=
    (deframe_of_unstuff_some unstuff_nil n).trans (if_neg (by decide))
  exact judge_none fun p hp => by cases hverdict.symm.trans hp

/-! ### The scan of a candidate at the head -/

/-- What a scan finds behind a rejected candidate that the bytes `rest` follow (R196, R198). -/
def afterRejected (policy : ResyncPolicy) (rest : List Byte) : List Byte :=
  match policy with
  | .consumeTail => rest
  | .reuseTail => flagByte :: rest

section
variable {s : State} {arg : Half} {c : List Byte}

theorem State.scanned_accepted {p : List Byte} (hc : flagByte ∉ c)
    (hverdict : judge s.params.maxPayload arg (flagByte :: c ++ [flagByte]) = some p) (rest : List Byte) :
    s.scanned arg (flagByte :: c ++ flagByte :: rest) = (rest, some p) := by
  rw [State.scanned, scanLoop_candidate s.params arg _ hc, hverdict]

theorem State.scanned_rejected (hc : flagByte ∉ c)
    (hverdict : judge s.params.maxPayload arg (flagByte :: c ++ [flagByte]) = none) (rest : List Byte) :
    s.scanned arg (flagByte :: c ++ flagByte :: rest) = s.scanned arg (afterRejected s.params.policy rest) := by
  rw [State.scanned, scanLoop_candidate s.params arg _ hc, hverdict]
  refine scanLoop_fuel s.params arg _ _ (afterRejected s.params.policy rest) ?_ (Nat.lt_succ_self _)
  cases s.params.policy <;> simp only [afterRejected, List.length_append, List.length_cons] <;> omega

end

/-- The scan of bytes with no FLAG before `rest` is that of `rest`. -/
theorem State.scanned_skips (s : State) (arg : Half) {g : List Byte} (hg : flagByte ∉ g) (rest : List Byte) :
    s.scanned arg (g ++ rest) = s.scanned arg rest := by
  have hfuel : s.scanned arg rest = scanLoop s.params arg ((g ++ rest).length + 1) rest :=
    scanLoop_fuel _ _ _ _ _ (Nat.lt_succ_self _) (by simp)
  rw [hfuel]
  simp only [State.scanned, scanLoop, locate_skips _ hg]

theorem State.scanned_frame {s : State} {arg : Half} {p : List Byte} (hfits : p.length ≤ s.params.maxPayload)
    (harg : p.length ≤ arg.toNat) (rest : List Byte) : s.scanned arg (frame p ++ rest) = (rest, some p) :=
  scanLoop_frame_append hfits harg _ rest

/-- A frame and what follows it, from its opening FLAG to its closing one. -/
theorem frame_append (p rest : List Byte) :
    frame p ++ rest = flagByte :: stuff (withCrc p) ++ flagByte :: rest := by
  simp [frame]

/-! ### A candidate at the head of the FIFO -/

/-- `LINE_RECEIVE` with a source that has nothing ends as the scan of the FIFO does. -/
theorem exec_lineReceive_quiet {s : State} {arg : Half} {more : List (Option Byte)} {a : List Byte}
    {l : List Byte × Option (List Byte)} (hinit : s.inited = true) (hen : s.rxEn = true)
    (hsource : s.ports.sourceAnswers = none :: more) (hacc : s.acc = a) (hscan : s.scanned arg a = l) :
    ∃ t, exec (.lineReceive arg) s = .next t ∧ s.Received t l :=
  exec_lineReceive_received hinit hen (by rwa [s.filled_quiet more hsource, hacc])

/-- Settles O40: the scan delivers the candidate at its first pass. -/
theorem acceptedCandidateIsDelivered : Obligations.AcceptedCandidateIsDelivered := by
  intro s arg c rest p more hidle hinit hen hsource hacc hc hdeframe harg
  obtain ⟨t, hexec, hreceived⟩ :=
    exec_lineReceive_quiet hinit hen hsource hacc (State.scanned_accepted hc (judge_some hdeframe harg) rest)
  exact ⟨t, hexec, hreceived.holds, hreceived.acc, hreceived.lcfg, hreceived.sameRest hidle⟩

/-- Settles O41: the scan goes on where the policy says. -/
theorem rejectedCandidateIsSkipped : Obligations.RejectedCandidateIsSkipped := by
  intro s arg c rest more hidle hinit hen hsource hacc hc hrejected
  have hscan := State.scanned_rejected hc (judge_none hrejected) rest
  obtain ⟨t, hexec, hreceived⟩ := exec_lineReceive_quiet hinit hen hsource hacc hscan
  refine ⟨t, hexec, ?_, hreceived.lcfg, hreceived.sameRest hidle⟩
  cases hpolicy : s.params.policy with
  | consumeTail => rw [hpolicy] at hreceived; exact ⟨hreceived.acc, hreceived.holds⟩
  | reuseTail => rw [hpolicy] at hreceived; exact ⟨hreceived.acc, hreceived.holds⟩

/-- Settles O48: the four bytes are the frame of the empty payload, which every caller has room for. -/
theorem emptyPayloadLooksLikeNothing : Obligations.EmptyPayloadLooksLikeNothing := by
  intro s arg rest more hinit hen hsource hacc
  have hframe : ([0x7E, 0xFF, 0xFF, 0x7E] : List Byte) = frame [] := by decide
  rw [hframe] at hacc
  have hscan := State.scanned_frame (s := s) (arg := arg) (p := []) (Nat.zero_le _) (Nat.zero_le _) rest
  obtain ⟨t, hexec, hreceived⟩ := exec_lineReceive_quiet hinit hen hsource hacc hscan
  exact ⟨t, hexec, hreceived.holds, hreceived.acc⟩

/-! ### Frames behind a rejected candidate -/

/-- Under both policies the scan finds the frame behind a rejected candidate that kept its two FLAGs: `REUSE_TAIL` leaves
one more candidate before it, the empty one between the two FLAGs that meet, which is rejected too. -/
theorem State.scanned_afterRejected_frame (s : State) (arg : Half) (p rest : List Byte) :
    s.scanned arg (afterRejected s.params.policy (frame p ++ rest)) = s.scanned arg (frame p ++ rest) := by
  cases hpolicy : s.params.policy with
  | consumeTail => rfl
  | reuseTail =>
    have hempty := State.scanned_rejected (s := s) (c := []) List.not_mem_nil
      (judge_emptyCandidate s.params.maxPayload arg) (stuff (withCrc p) ++ flagByte :: rest)
    rw [hpolicy] at hempty
    rw [frame_append]
    exact hempty

/-- Settles O45: the rejected candidate is consumed, and the frame behind it is at the head. -/
theorem resynchronizesPastACorruptedFrame : Obligations.ResynchronizesPastACorruptedFrame := by
  intro s arg c p rest more hinit hen hsource hacc hc hrejected hfits harg
  have hscan : s.scanned arg (flagByte :: c ++ flagByte :: (frame p ++ rest)) = (rest, some p) :=
    calc s.scanned arg (flagByte :: c ++ flagByte :: (frame p ++ rest))
      _ = s.scanned arg (afterRejected s.params.policy (frame p ++ rest)) :=
        State.scanned_rejected hc (judge_none hrejected) _
      _ = s.scanned arg (frame p ++ rest) := s.scanned_afterRejected_frame arg p rest
      _ = (rest, some p) := State.scanned_frame hfits harg rest
  obtain ⟨t, hexec, hreceived⟩ := exec_lineReceive_quiet hinit hen hsource hacc hscan
  exact ⟨t, hexec, hreceived.holds, hreceived.acc⟩

/-- The candidate that a frame's opening FLAG closes, if it is rejected, under `CONSUME_TAIL` takes that FLAG with it. -/
theorem State.scanned_misphased {s : State} {arg : Half} {c : List Byte} (hpolicy : s.params.policy = .consumeTail)
    (hc : flagByte ∉ c) (hverdict : judge s.params.maxPayload arg (flagByte :: c ++ [flagByte]) = none)
    (p rest : List Byte) :
    s.scanned arg (flagByte :: c ++ (frame p ++ rest)) = s.scanned arg (flagByte :: rest) := by
  calc s.scanned arg (flagByte :: c ++ (frame p ++ rest))
    _ = s.scanned arg (flagByte :: c ++ flagByte :: (stuff (withCrc p) ++ flagByte :: rest)) := by
      rw [frame_append]; rfl
    _ = s.scanned arg (stuff (withCrc p) ++ flagByte :: rest) := by
      rw [State.scanned_rejected hc hverdict, hpolicy]; rfl
    _ = s.scanned arg (flagByte :: rest) := s.scanned_skips arg (flag_notMem_stuff _) _

/-- Under `CONSUME_TAIL` a FLAG before frames back-to-back loses them all: it and the opening FLAG of the next frame are
an empty candidate, and the frame's closing FLAG takes its place (R205). -/
theorem State.scanned_flag_frames {s : State} (arg : Half) (hpolicy : s.params.policy = .consumeTail)
    (ps : List (List Byte)) : s.scanned arg (flagByte :: ps.flatMap frame) = ([flagByte], none) := by
  induction ps with
  | nil =>
    have hone := s.scanned_oneFlag arg (g := []) (c := []) List.not_mem_nil List.not_mem_nil
    exact hone.trans (if_pos (Nat.zero_le _))
  | cons p ps ih =>
    exact (State.scanned_misphased hpolicy (c := []) List.not_mem_nil (judge_emptyCandidate _ _) p _).trans ih

/-- Settles O46: the first frame's closing FLAG is left before the frames that follow. -/
theorem misphaseUnderConsumeTail : Obligations.MisphaseUnderConsumeTail := by
  intro s arg c p ps more hinit hen hpolicy hsource hacc hc hrejected
  have hscan : s.scanned arg (flagByte :: c ++ (p :: ps).flatMap frame) = ([flagByte], none) :=
    (State.scanned_misphased hpolicy hc (judge_none hrejected) p _).trans (State.scanned_flag_frames arg hpolicy ps)
  obtain ⟨t, hexec, hreceived⟩ := exec_lineReceive_quiet hinit hen hsource hacc hscan
  exact ⟨t, hexec, hreceived.holds, hreceived.acc⟩

/-- Settles O47: the FLAG that closed the rejected candidate stays and opens the frame. -/
theorem reuseTailRecoversTheNextFrame : Obligations.ReuseTailRecoversTheNextFrame := by
  intro s arg c p rest more hinit hen hpolicy hsource hacc hc hrejected hfits harg
  have hscan : s.scanned arg (flagByte :: c ++ (frame p ++ rest)) = (rest, some p) :=
    calc s.scanned arg (flagByte :: c ++ (frame p ++ rest))
      _ = s.scanned arg (flagByte :: c ++ flagByte :: (stuff (withCrc p) ++ flagByte :: rest)) := by
        rw [frame_append]; rfl
      _ = s.scanned arg (frame p ++ rest) := by
        rw [State.scanned_rejected hc (judge_none hrejected), hpolicy, frame_append]; rfl
      _ = (rest, some p) := State.scanned_frame hfits harg rest
  obtain ⟨t, hexec, hreceived⟩ := exec_lineReceive_quiet hinit hen hsource hacc hscan
  exact ⟨t, hexec, hreceived.holds, hreceived.acc⟩

/-! ### A frame that arrives byte by byte -/

/-- Bytes of a frame short of its last one: its opening FLAG, then at most `CAND_MAX` bytes that are no FLAG (R200). -/
theorem take_frame_partial {P : Params} {p : List Byte} {k : Nat} (hfits : p.length ≤ P.maxPayload)
    (hk : k + 1 < (frame p).length) :
    ∃ c, (frame p).take (k + 1) = flagByte :: c ∧ flagByte ∉ c ∧ c.length ≤ P.candMax := by
  have hlen := frame_length_le_scratchCap hfits
  rw [frame_length] at hk hlen
  refine ⟨(stuff (withCrc p)).take k, ?_, fun hflag => flag_notMem_stuff _ (List.mem_of_mem_take hflag), ?_⟩
  · simp [frame, List.take_append_of_le_length (show k ≤ (stuff (withCrc p)).length by omega)]
  · simp only [Params.scratchCap] at hlen
    simp only [Params.candMax, List.length_take]
    omega

/-- Settles O43: the fill adds the byte; the frame is delivered when that was its last one, and before is a partial
candidate. -/
theorem partialArrival : Obligations.PartialArrival := by
  intro s arg p k b more hinit hen hfits harg hacc hb hsource
  obtain ⟨hlt, hbyte⟩ := List.getElem?_eq_some_iff.mp hb
  have hroom : [b].length ≤ s.params.accCap - s.acc.length := by
    have hlen : (frame p).length ≤ s.params.accCap := frame_length_le_scratchCap hfits
    rw [hacc, List.length_take_of_le hlt.le, List.length_singleton]
    omega
  have hfilled : s.filled.1 = (frame p).take (k + 1) := by
    rw [State.filled, fillLoop_listed hroom hsource, hacc, ← hbyte, List.take_append_getElem]
  by_cases hk : k + 1 < (frame p).length
  · obtain ⟨c, hbytes, hc, hshort⟩ := take_frame_partial hfits hk
    have hscan : s.scanned arg s.filled.1 = ((frame p).take (k + 1), none) := by
      have hone := s.scanned_oneFlag arg (g := []) List.not_mem_nil hc
      rw [hfilled, hbytes]
      exact hone.trans (if_pos hshort)
    obtain ⟨t, hexec, hreceived⟩ := exec_lineReceive_received hinit hen hscan
    exact ⟨t, hexec, by rw [if_pos hk]; exact ⟨hreceived.holds, hreceived.acc⟩⟩
  · have hscan : s.scanned arg s.filled.1 = ([], some p) := by
      rw [hfilled, List.take_of_length_le (Nat.not_lt.mp hk), ← List.append_nil (frame p)]
      exact State.scanned_frame hfits harg []
    obtain ⟨t, hexec, hreceived⟩ := exec_lineReceive_received hinit hen hscan
    exact ⟨t, hexec, by rw [if_neg hk]; exact ⟨hreceived.holds, hreceived.acc⟩⟩

end Sys2Proof.Machine
end

section
/-! Commands on one line do not interfere, apart from `ACC` (43_line_session.md R211): the frame of every command. -/

namespace Sys2Proof.Machine

/-! ### The other port -/

/-- The loop of R180 takes nothing from the source. -/
theorem offerAll_sourceAnswers (f : List Byte) (p : Ports) :
    (offerAll f p).2.2.sourceAnswers = p.sourceAnswers := by
  induction f generalizing p with
  | nil => rfl
  | cons b rest ih =>
    have hoffer := (p.offer_events b).2
    simp only [offerAll]
    split
    · exact (ih _).trans hoffer
    · exact hoffer

/-- The fill of R189 offers nothing to the sink. -/
theorem fillLoop_sinkAnswers (n : Nat) (a : List Byte) (p : Ports) :
    (fillLoop n a p).2.sinkAnswers = p.sinkAnswers := by
  induction n generalizing a p with
  | zero => rfl
  | succ n ih =>
    have hpoll := p.poll_events.2
    simp only [fillLoop]
    split
    · exact (ih _ _).trans hpoll
    · exact hpoll

/-! ### The frame of each kind of command -/

/-- `t` differs from `s` at most in the result registers and `SCR`. -/
abbrev State.OnlyResults (s t : State) : Prop := s.SameLine t ∧ s.SamePorts t ∧ s.SameRest t

theorem State.finish_onlyResults (s : State) (st : Status) (r : Half) (d : Option (List Byte)) :
    s.OnlyResults (s.finish st r d) := (s.finish_sound st r d).2

/-- The operand check adds a failure at most. -/
theorem State.withOperand_onlyResults {s work : State} (din : List Byte) (hwork : s.OnlyResults work) :
    s.OnlyResults (s.withOperand din work) := by
  obtain ⟨-, he⟩ | ⟨-, he⟩ := s.withOperand_cases din work
  · rw [he]; exact s.finish_onlyResults _ _ _
  · rw [he]; exact hwork

/-- A pure command writes the result registers and `SCR` and nothing else. -/
theorem exec_onlyResults_of_isPure {i : Instr} {s t : State} (hpure : isPure i = true) (h : exec i s = .next t) :
    s.OnlyResults t := by
  have hwork : ∀ x st r d, s.OnlyResults ((s.scrWrite x).finish st r d) :=
    fun x st r d => (s.scrWrite x).finish_onlyResults st r d
  cases i with
  | crcCompute din | crcVerify din =>
    cases h
    exact s.withOperand_onlyResults din (s.finish_onlyResults _ _ _)
  | crcAppend arg din | frameEncode din =>
    cases h
    refine s.withOperand_onlyResults din ?_
    split
    · exact s.finish_onlyResults _ _ _
    · exact hwork _ _ _ _
  | stuffEncode arg din =>
    cases h
    refine s.withOperand_onlyResults din ?_
    split
    · exact s.scrHavoc.finish_onlyResults _ _ _
    · exact hwork _ _ _ _
  | stuffDecode din | frameDecode din =>
    cases h
    refine s.withOperand_onlyResults din ?_
    split
    · exact (s.scrWrite din).scrHavoc.finish_onlyResults _ _ _
    · exact hwork _ _ _ _
  | lineInit rx tx => cases hpure
  | lineSend din => cases hpure
  | lineReceive arg => cases hpure

/-- `LINE_SEND` changes neither the line nor the receive machine. -/
theorem exec_lineSend_frame {din : List Byte} {s t : State} (h : exec (.lineSend din) s = .next t) :
    t.params = s.params ∧ t.host = s.host ∧ s.SameLine t ∧ t.rxs = s.rxs := by
  by_cases hcan : s.canSend = true
  · obtain ⟨hinit, hen⟩ := s.canSend_eq_true.mp hcan
    by_cases hfits : din.length ≤ s.params.maxPayload
    · obtain ⟨t', he, hline, -, hparams, -, hrxs, hhost, -⟩ := lineSendRunsItsLoop s din hinit hen hfits
      cases h.symm.trans he
      exact ⟨hparams, hhost, hline, hrxs⟩
    · cases h.symm.trans (exec_lineSend_tooLong s din hinit hen (Nat.not_le.mp hfits))
      exact ⟨rfl, rfl, ⟨rfl, rfl⟩, rfl⟩
  · have hcannot := s.canSend_eq_false.mp (Bool.eq_false_of_not_eq_true hcan)
    cases h.symm.trans (exec_lineSend_notConfigured s din hcannot)
    exact ⟨rfl, rfl, ⟨rfl, rfl⟩, rfl⟩

/-- `LINE_RECEIVE` changes neither the configuration nor the transmit machine. -/
theorem exec_lineReceive_frame {arg : Half} {s t : State} (h : exec (.lineReceive arg) s = .next t) :
    t.params = s.params ∧ t.host = s.host ∧ t.lcfg = s.lcfg ∧ t.txs = s.txs := by
  by_cases hcan : s.canReceive = true
  · obtain ⟨hinit, hen⟩ := s.canReceive_eq_true.mp hcan
    obtain ⟨t', he, hreceived⟩ := exec_lineReceive_received (arg := arg) hinit hen rfl
    cases h.symm.trans he
    exact ⟨hreceived.params, hreceived.host, hreceived.lcfg, hreceived.txs⟩
  · have hcannot := s.canReceive_eq_false.mp (Bool.eq_false_of_not_eq_true hcan)
    cases h.symm.trans (exec_lineReceive_notConfigured s arg hcannot)
    exact ⟨rfl, rfl, rfl, rfl⟩

/-- No command changes the build or the host's queue (10_state.md R34, 20_memory.md R65). -/
theorem exec_params_host {i : Instr} {s t : State} (h : exec i s = .next t) :
    t.params = s.params ∧ t.host = s.host := by
  by_cases hpure : isPure i = true
  · obtain ⟨-, -, hparams, -, -, hhost⟩ := exec_onlyResults_of_isPure hpure h
    exact ⟨hparams, hhost⟩
  cases i with
  | lineInit rx tx => cases h; exact ⟨rfl, rfl⟩
  | lineSend din =>
    obtain ⟨hparams, hhost, -⟩ := exec_lineSend_frame h
    exact ⟨hparams, hhost⟩
  | lineReceive arg =>
    obtain ⟨hparams, hhost, -⟩ := exec_lineReceive_frame h
    exact ⟨hparams, hhost⟩
  | _ => exact absurd rfl hpure

/-- Settles O51: the frame of a pure command, of `LINE_SEND` and of `LINE_RECEIVE`. -/
theorem commandsDoNotInterfere : Obligations.CommandsDoNotInterfere := by
  intro i s t h
  obtain ⟨hparams, hhost⟩ := exec_params_host h
  refine ⟨hparams, hhost, fun hpure => exec_onlyResults_of_isPure hpure h, ?_, ?_⟩
  · rintro din rfl
    obtain ⟨-, -, hline, hrxs⟩ := exec_lineSend_frame h
    refine ⟨hline, hrxs, ?_⟩
    obtain hsame | ⟨-, -, hports⟩ := exec_lineSend_ports h
    · exact ⟨by rw [hsame], [], by rw [hsame, List.append_nil], nofun⟩
    · obtain ⟨ev, hevents, -, hoffers⟩ := offerAll_called (frame din) s.ports
      rw [hports]
      exact ⟨offerAll_sourceAnswers _ _, ev, hevents, hoffers⟩
  · rintro arg rfl
    obtain ⟨-, -, hlcfg, htxs⟩ := exec_lineReceive_frame h
    refine ⟨hlcfg, htxs, ?_⟩
    obtain hsame | ⟨-, hports⟩ := exec_lineReceive_ports h
    · exact ⟨by rw [hsame], [], by rw [hsame, List.append_nil], nofun⟩
    · obtain ⟨ev, hevents, -, hpolls⟩ := s.filled_called
      rw [hports]
      exact ⟨fillLoop_sinkAnswers _ _ _, ev, hevents, hpolls⟩

end Sys2Proof.Machine
end

section
/-! How commands end (60_exceptions.md R220 to R222, R225): in a next state, with a status of the table of errors, and a
failing one leaves the line alone and no data. And the block with nothing presented (R235). -/

namespace Sys2Proof.Machine

/-! ### The statuses of the table -/

theorem ok_mem_statusesOf (i : Instr) : .ok ∈ statusesOf i := by
  cases i <;> exact List.mem_cons_self

/-- Only `LINE_SEND` has `TransportError` in its row of the table (R221). -/
theorem lineSend_of_transportError_mem {i : Instr} (h : .transportError ∈ statusesOf i) : ∃ din, i = .lineSend din := by
  cases i with
  | lineSend din => exact ⟨din, rfl⟩
  | _ => simp [statusesOf] at h

theorem Status.eq_transportError_of_code {st : Status} (h : st.code = Status.transportError.code) :
    st = .transportError := by
  cases st with
  | transportError => rfl
  | _ => exact absurd h (by decide)

/-- The deframer rejects with an error of the row of `FRAME_DECODE` (42_framer.md R152). -/
theorem deframe_error_mem_statusesOf {n : Nat} {f : List Byte} {e : Status} (h : deframe n f = .error e) :
    e ∈ statusesOf (.frameDecode f) := by
  by_cases hflags : hasBoundaries f = true
  case neg =>
    cases (deframe_of_no_boundaries hflags n).symm.trans h
    simp [statusesOf]
  obtain ⟨interior, rfl⟩ := exists_interior_of_hasBoundaries hflags
  cases hu : unstuff interior with
  | none =>
    cases (deframe_of_unstuff_none hu n).symm.trans h
    simp [statusesOf]
  | some u =>
    rw [deframe_of_unstuff_some hu] at h
    split at h
    case isTrue =>
      split at h <;> cases h
      simp [statusesOf]
    case isFalse =>
      cases h
      simp [statusesOf]

/-! ### The end of a command -/

/-- What a command that fails with `e` leaves of `s` (R222): the line is unchanged and there is no data, and unless `e`
is `TransportError`, `RESULT` is 0 and no port was called. -/
abbrev State.FailedWith (s t : State) (e : Status) : Prop :=
  s.SameLine t ∧ t.dout = none ∧ (e ≠ .transportError → t.result = 0 ∧ s.SamePorts t)

/-- `i` on `s` ends in a next state, with a status of its row of the table (R221), and with the frame of a failure if
that is an error. -/
def EndsByTable (i : Instr) (s : State) : Prop :=
  ∃ t st, exec i s = .next t ∧ st ∈ statusesOf i ∧ t.status = st.code ∧ (st ≠ .ok → s.FailedWith t st)

section
variable {i : Instr} {s t : State}

theorem EndsByTable.of_ok (h : exec i s = .next t) (hok : t.status = Status.ok.code) : EndsByTable i s :=
  ⟨t, .ok, h, ok_mem_statusesOf i, hok, absurd rfl⟩

theorem EndsByTable.of_failure {e : Status} (h : exec i s = .next t) (he : e ∈ statusesOf i) (hholds : t.Holds e 0 none)
    (hline : s.SameLine t) (hports : s.SamePorts t) : EndsByTable i s := by
  obtain ⟨hstatus, hresult, hdout⟩ := hholds
  exact ⟨t, e, h, he, hstatus, fun _ => ⟨hline, hdout, fun _ => ⟨hresult, hports⟩⟩⟩

theorem Returns.endsByTable_ok {r : Half} {d : Option (List Byte)} (h : Returns (exec i s) s .ok r d) :
    EndsByTable i s := by
  obtain ⟨t, hexec, ⟨hok, -, -⟩, -⟩ := h
  exact .of_ok hexec hok

theorem Returns.endsByTable_error {e : Status} (h : Returns (exec i s) s e 0 none) (he : e ∈ statusesOf i) :
    EndsByTable i s := by
  obtain ⟨t, hexec, hholds, hline, hports, -⟩ := h
  exact .of_failure hexec he hholds hline hports

/-- A command that fails where a length exceeds its limit, and returns `OK` where it does not, ends by the table. -/
theorem EndsByTable.of_lengthCheck {limit n : Nat} {r : Half} {d : Option (List Byte)}
    (hcap : .capacityError ∈ statusesOf i) (hlong : limit < n → Returns (exec i s) s .capacityError 0 none)
    (hfits : n ≤ limit → Returns (exec i s) s .ok r d) : EndsByTable i s := by
  obtain h | h := Nat.lt_or_ge limit n
  · exact (hlong h).endsByTable_error hcap
  · exact (hfits h).endsByTable_ok

end

/-! ### Each command ends -/

theorem stuffEncode_endsByTable (arg : Half) (din : List Byte) (s : State) : EndsByTable (.stuffEncode arg din) s := by
  by_cases h : s.params.maxOperand < din.length ∨ min arg.toNat s.params.scratchCap < (stuff din).length
  · exact (returns_stuffEncode_noRoom h).endsByTable_error (by simp [statusesOf])
  · obtain ⟨hfits, hroom⟩ := not_or.mp h
    exact (returns_stuffEncode_fits (Nat.not_lt.mp hfits) (Nat.not_lt.mp hroom)).endsByTable_ok

theorem stuffDecode_endsByTable (din : List Byte) (s : State) : EndsByTable (.stuffDecode din) s := by
  obtain hlong | hfits := Nat.lt_or_ge s.params.maxOperand din.length
  · obtain ⟨-, htooLong, -⟩ := stuffDecodeReturnsTheRegion s 0 din
    exact (htooLong hlong).endsByTable_error (by simp [statusesOf])
  cases hu : unstuff din with
  | none => exact (returns_stuffDecode_none hfits hu).endsByTable_error (by simp [statusesOf])
  | some r => exact (returns_stuffDecode_some hfits hu).endsByTable_ok

theorem frameDecode_endsByTable (din : List Byte) (s : State) : EndsByTable (.frameDecode din) s := by
  obtain hlong | hfits := Nat.lt_or_ge s.params.maxOperand din.length
  · obtain ⟨-, htooLong, -⟩ := frameDecodeReturnsThePayload s 0 din
    exact (htooLong hlong).endsByTable_error (by simp [statusesOf])
  cases hd : deframe s.params.maxPayload din with
  | error e => exact (returns_frameDecode_error hfits hd).endsByTable_error (deframe_error_mem_statusesOf hd)
  | ok p => exact (returns_frameDecode_ok hfits hd).endsByTable_ok

/-- `LINE_SEND` is refused by one of its checks, or the sink's answers decide between `OK` and `TransportError`. -/
theorem lineSend_endsByTable (din : List Byte) (s : State) : EndsByTable (.lineSend din) s := by
  by_cases hcan : s.canSend = true
  case neg =>
    have hcannot := s.canSend_eq_false.mp (Bool.eq_false_of_not_eq_true hcan)
    exact .of_failure (exec_lineSend_notConfigured s din hcannot) (e := .configError) (by simp [statusesOf])
      ⟨rfl, rfl, rfl⟩ ⟨rfl, rfl⟩ rfl
  obtain ⟨hinit, hen⟩ := s.canSend_eq_true.mp hcan
  obtain hlong | hfits := Nat.lt_or_ge s.params.maxPayload din.length
  · exact .of_failure (exec_lineSend_tooLong s din hinit hen hlong) (e := .capacityError) (by simp [statusesOf])
      ⟨rfl, rfl, rfl⟩ ⟨rfl, rfl⟩ rfl
  obtain ⟨t, hexec, hline, -, -, -, -, -, hresult⟩ := lineSendRunsItsLoop s din hinit hen hfits
  split at hresult
  case isTrue =>
    obtain ⟨hok, -, -⟩ := hresult
    exact .of_ok hexec hok
  case isFalse =>
    obtain ⟨hstatus, -, hdout⟩ := hresult
    exact ⟨t, .transportError, hexec, by simp [statusesOf], hstatus, fun _ => ⟨hline, hdout, absurd rfl⟩⟩

/-- `LINE_RECEIVE` is refused by its check, or ends with `OK`, whatever arrives. -/
theorem lineReceive_endsByTable (arg : Half) (s : State) : EndsByTable (.lineReceive arg) s := by
  by_cases hcan : s.canReceive = true
  case neg =>
    have hcannot := s.canReceive_eq_false.mp (Bool.eq_false_of_not_eq_true hcan)
    exact .of_failure (exec_lineReceive_notConfigured s arg hcannot) (e := .configError) (by simp [statusesOf])
      ⟨rfl, rfl, rfl⟩ ⟨rfl, rfl⟩ rfl
  obtain ⟨hinit, hen⟩ := s.canReceive_eq_true.mp hcan
  obtain ⟨t, hexec, hreceived⟩ := exec_lineReceive_received (arg := arg) hinit hen rfl
  obtain ⟨hok, -, -⟩ := hreceived.holds
  exact .of_ok hexec hok

theorem exec_endsByTable (i : Instr) (s : State) : EndsByTable i s := by
  cases i with
  | crcCompute din =>
    obtain ⟨-, hlong, hfits⟩ := crcComputeReturnsTheCrc s 0 din
    exact .of_lengthCheck (by simp [statusesOf]) hlong hfits
  | crcAppend arg din =>
    exact .of_lengthCheck (by simp [statusesOf]) (returns_crcAppend_noRoom · arg) (returns_crcAppend_fits · arg)
  | crcVerify din =>
    obtain ⟨-, hlong, hfits⟩ := crcVerifyReturnsTheVerdict s 0 din
    exact .of_lengthCheck (by simp [statusesOf]) hlong hfits
  | stuffEncode arg din => exact stuffEncode_endsByTable arg din s
  | stuffDecode din => exact stuffDecode_endsByTable din s
  | frameEncode din =>
    exact .of_lengthCheck (by simp [statusesOf]) returns_frameEncode_tooLong returns_frameEncode_fits
  | frameDecode din => exact frameDecode_endsByTable din s
  | lineInit rx tx => exact .of_ok rfl rfl
  | lineSend din => exact lineSend_endsByTable din s
  | lineReceive arg => exact lineReceive_endsByTable arg s

/-- The next state a command answers is the one it ends in by the table. -/
theorem exec_next_byTable {i : Instr} {s t : State} (h : exec i s = .next t) :
    ∃ st ∈ statusesOf i, t.status = st.code ∧ (st ≠ .ok → s.FailedWith t st) := by
  obtain ⟨t', st, hexec, hmem, hstatus, hfailed⟩ := exec_endsByTable i s
  cases h.symm.trans hexec
  exact ⟨st, hmem, hstatus, hfailed⟩

/-! ### The claims -/

/-- Settles O52: each command's own rule ends it; the two machines come back within their bounds. -/
theorem everyCommandEnds : Obligations.EveryCommandEnds := by
  intro i s
  obtain ⟨t, -, hexec, -⟩ := exec_endsByTable i s
  exact ⟨t, hexec⟩

/-- Settles O53, command by command. -/
theorem statusesAreThoseOfTheTable : Obligations.StatusesAreThoseOfTheTable := by
  intro i s t h
  obtain ⟨st, hmem, hstatus, -⟩ := exec_next_byTable h
  exact ⟨st, hmem, hstatus⟩

/-- Settles O54: a status that is not `OK` is an error of the command's row, and comes with the frame of a failure. -/
theorem failingCommandChangesOnlyResults : Obligations.FailingCommandChangesOnlyResults := by
  intro i s t h hnotOk
  obtain ⟨st, hmem, hstatus, hfailed⟩ := exec_next_byTable h
  rw [hstatus] at hnotOk ⊢
  obtain ⟨hline, hdout, hrest⟩ := hfailed fun hst => hnotOk (congrArg Status.code hst)
  refine ⟨hline, hdout, fun hne => hrest fun hst => hne (congrArg Status.code hst), fun htransport => ?_⟩
  rw [Status.eq_transportError_of_code htransport] at hmem
  exact lineSend_of_transportError_mem hmem

/-- Settles O7: neither refusal of `step` applies, and there is nothing to take from the queue. -/
theorem idleBlockHoldsItsState : Obligations.IdleBlockHoldsItsState := by
  rintro s ⟨hlegal, hidle⟩ hempty
  have hrunning : s.running = false := s.running_eq_false.mpr hidle
  have hnothing : s.takeEvent = none := by simp [State.takeEvent, hempty]
  simp [step, hlegal, hrunning, hnothing]

end Sys2Proof.Machine
end

section
/-! How many port calls one command makes (70_reset_and_hazards.md R266), what a step refuses (R262, 00_scope.md R10,
30_encoding.md R80), and what a reset does (R250). -/

namespace Sys2Proof.Machine

/-! ### The number of port calls -/

/-- The record of calls grows by no more than the calls made. -/
theorem Ports.Called.events_length_le {p q : Ports} {isOffer : Bool} {n : Nat} (h : p.Called q isOffer n) :
    q.events.length ≤ p.events.length + n := by
  obtain ⟨ev, hevents, hlen, -⟩ := h
  rw [hevents, List.length_append]
  exact Nat.add_le_add_left hlen _

/-- `LINE_SEND` past its checks offers a frame, and that frame fits the working buffer (R181). -/
theorem exec_lineSend_events_length_le {din : List Byte} {s t : State} (h : exec (.lineSend din) s = .next t) :
    t.ports.events.length ≤ s.ports.events.length + min (frame din).length s.params.scratchCap := by
  obtain hsame | ⟨-, hfits, hports⟩ := exec_lineSend_ports h
  · rw [hsame]
    exact Nat.le_add_right _ _
  · rw [min_eq_left (frame_length_le_scratchCap hfits), hports]
    exact (offerAll_called (frame din) s.ports).events_length_le

/-- `LINE_RECEIVE` past its check polls once for each free place of the FIFO at most (R192, R201). -/
theorem exec_lineReceive_events_length_le {arg : Half} {s t : State} (h : exec (.lineReceive arg) s = .next t) :
    t.ports.events.length ≤ s.ports.events.length + (s.params.accCap - s.acc.length) := by
  obtain hsame | ⟨-, hports⟩ := exec_lineReceive_ports h
  · rw [hsame]
    exact Nat.le_add_right _ _
  · rw [hports]
    exact s.filled_called.events_length_le

/-- Settles O56: the offers are those of one frame, the polls those of one fill. -/
theorem portCallsAreBounded : Obligations.PortCallsAreBounded := by
  intro i s t h
  refine ⟨?_, ?_, ?_, ?_⟩
  · rintro din rfl
    exact (exec_lineSend_events_length_le h).trans (Nat.add_le_add_left (min_le_left _ _) _)
  · rintro din rfl
    exact (exec_lineSend_events_length_le h).trans (Nat.add_le_add_left (min_le_right _ _) _)
  · rintro arg rfl
    have hroom : s.params.accCap - s.acc.length ≤ s.params.accCap + 1 := (Nat.sub_le _ _).trans (Nat.le_succ _)
    exact (exec_lineReceive_events_length_le h).trans (Nat.add_le_add_left hroom _)
  · rintro (hpure | ⟨rx, tx, rfl⟩)
    · exact congrArg Ports.events (exec_samePorts_of_isPure hpure h)
    · exact congrArg Ports.events (exec_lineInit_samePorts h)

/-! ### What a step refuses -/

/-- The builds R10 excludes. -/
theorem Params.legal_eq_false_iff (p : Params) : p.legal = false ↔ p.maxPayload = 0 ∨ 32764 < p.maxPayload := by
  rw [Params.legal, Bool.and_eq_false_iff, decide_eq_false_iff_not, decide_eq_false_iff_not]
  omega

/-- An operand longer than R80 allows is refused before its command word is read. -/
theorem runTransaction_of_not_wf {t : Transaction} (h : t.wf = false) (s : State) :
    runTransaction t s = .refused .operandTooLong := by
  simp [runTransaction, h]

/-- Settles O8: the build is checked first, then the machines, then the operand of the command taken. -/
theorem stepRefusesWhatIsOutside : Obligations.StepRefusesWhatIsOutside := by
  refine ⟨fun s hlegal hbusy => ?_, fun s hbuild => ?_, fun s t rest hready hhost hlong => ?_⟩
  · have hrunning : s.running = true := Bool.of_not_eq_false (mt s.running_eq_false.mp hbusy)
    simp [step, hlegal, hrunning]
  · have hillegal : s.params.legal = false := (Params.legal_eq_false_iff s.params).mpr hbuild
    simp [step, hillegal]
  · have hwf : t.wf = false := decide_eq_false (Nat.not_le.mpr hlong)
    rw [step_of_command hready hhost, runTransaction_of_not_wf hwf]

/-! ### Reset -/

/-- A ready block takes the presented reset from the host's queue and applies it. -/
theorem step_of_reset {s : State} {rest : List HostEvent} (hready : s.Ready) (hhost : s.host = .reset :: rest) :
    step s = .next { s with host := rest }.applyReset := by
  obtain ⟨hlegal, hidle⟩ := hready
  have hrunning : s.running = false := s.running_eq_false.mpr hidle
  simp [step, hlegal, hrunning, s.takeEvent_cons _ rest hhost]

/-- Settles O10: the step applies the reset, which writes the values R250 gives and nothing else. -/
theorem resetEventResetsTheBlock : Obligations.ResetEventResetsTheBlock := by
  intro s rest hready hhost
  exact ⟨_, step_of_reset hready hhost, rfl, rfl, ⟨rfl, rfl, rfl⟩, ⟨rfl, rfl⟩, rfl, rfl, rfl⟩

end Sys2Proof.Machine
end
